-- ==== Sys2Proof/Word.lean ====
section
/-! DEFINITION. The two word sizes of the block: a byte of a frame and a 32-bit register. -/

namespace Sys2Proof

/-- A byte: a frame byte, the CRC accumulator, the status byte (00_scope.md R7). -/
abbrev Byte := BitVec 8

/-- A 32-bit register or command word (00_scope.md R6: "Host register width | 32 bits"). -/
abbrev Word := BitVec 32

end Sys2Proof
end

