-- ==== Sys2Proof/Syntax.lean ====
section
/-! DEFINITION. The commands of the block, one constructor for each row of spec/opcode_table.json. -/

namespace Sys2Proof

/-- A decoded command (30_encoding.md R42). `len` is the LEN field, a byte count or frame length;
`data` is the DATA byte of CRC_FEED (R41). A `len` above 15 fits no command word: see WellFormed. -/
inductive Instr where
  | nop
  | crcInit
  | crcFeed (data : Byte)
  | crcBuf (len : Nat)
  | crcVerify (len : Nat)
  | unpack (len : Nat)
  | pack (len : Nat)
  | packMeasureCmd
  | packInitCmd
  | convHum
  | convTemp
  | unpackConvert (len : Nat)
  deriving DecidableEq, Repr

end Sys2Proof
end

