-- ==== Sys2Proof/WellFormed.lean ====
section
/-! DEFINITION. Which commands a 32-bit command word can spell. -/

namespace Sys2Proof

/-- LEN has 4 bits (30_encoding.md R40, R41: "LEN = w[11:8]", 0..15). -/
def Instr.lenFits (len : Nat) : Bool := decide (len ≤ 15)

/-- Every operand lies in its field's range. "An operand outside its field's range is refused by the
assembler: it spells no command" (30_encoding.md R46). DATA is a byte by its type. -/
def Instr.wellFormed : Instr → Bool
  | .nop => true
  | .crcInit => true
  | .crcFeed _ => true
  | .crcBuf len => lenFits len
  | .crcVerify len => lenFits len
  | .unpack len => lenFits len
  | .pack len => lenFits len
  | .packMeasureCmd => true
  | .packInitCmd => true
  | .convHum => true
  | .convTemp => true
  | .unpackConvert len => lenFits len

/-- The command can be written as one command word. -/
abbrev Instr.WellFormed (i : Instr) : Prop := i.wellFormed = true

end Sys2Proof
end

