-- ==== Sys2Proof/Decode.lean ====
section
/-! DEFINITION. Decoding of a command word, total on all 32-bit words, and the encoder that writes one. -/

namespace Sys2Proof

/-- OP, bits 3:0 (30_encoding.md R40). -/
def fieldOp (w : Word) : BitVec 4 := w.extractLsb' 0 4

/-- LEN, bits 11:8 (30_encoding.md R40). -/
def fieldLen (w : Word) : BitVec 4 := w.extractLsb' 8 4

/-- DATA, bits 23:16 (30_encoding.md R40). -/
def fieldData (w : Word) : Byte := w.extractLsb' 16 8

/-- The two ways a word is illegal (30_encoding.md R44). Which one it is has no further effect. -/
inductive IllegalReason where
  /-- "OP is 0xC, 0xD, 0xE or 0xF". -/
  | reservedOp
  /-- "OP is 0x0 to 0xB, but a reserved bit or a field the command does not take is nonzero". -/
  | nonzeroField
  deriving DecidableEq, Repr

/-- What a command word decodes to: a command, or ILLEGAL by name. -/
inductive Decoded where
  | command (i : Instr)
  | illegal (why : IllegalReason)
  deriving DecidableEq, Repr

/-- `decode` of 30_encoding.md R43, row by row: a word selects a command only if every bit outside the
fields that command takes matches exactly. -/
def decode (w : Word) : Decoded :=
  if w &&& 0xFFFFFFFF#32 = 0x00000000#32 then .command .nop
  else if w &&& 0xFFFFFFFF#32 = 0x00000001#32 then .command .crcInit
  else if w &&& 0xFF00FFFF#32 = 0x00000002#32 then .command (.crcFeed (fieldData w))
  else if w &&& 0xFFFFF0FF#32 = 0x00000003#32 then .command (.crcBuf (fieldLen w).toNat)
  else if w &&& 0xFFFFF0FF#32 = 0x00000004#32 then .command (.crcVerify (fieldLen w).toNat)
  else if w &&& 0xFFFFF0FF#32 = 0x00000005#32 then .command (.unpack (fieldLen w).toNat)
  else if w &&& 0xFFFFF0FF#32 = 0x00000006#32 then .command (.pack (fieldLen w).toNat)
  else if w &&& 0xFFFFFFFF#32 = 0x00000007#32 then .command .packMeasureCmd
  else if w &&& 0xFFFFFFFF#32 = 0x00000008#32 then .command .packInitCmd
  else if w &&& 0xFFFFFFFF#32 = 0x00000009#32 then .command .convHum
  else if w &&& 0xFFFFFFFF#32 = 0x0000000A#32 then .command .convTemp
  else if w &&& 0xFFFFF0FF#32 = 0x0000000B#32 then .command (.unpackConvert (fieldLen w).toNat)
  else .illegal (if 12 ≤ (fieldOp w).toNat then .reservedOp else .nonzeroField)

/-- The command word with the given fields and every reserved field 0, most significant field first
as in the diagram of 30_encoding.md R40: RSV2, DATA, RSV1, LEN, RSV0, OP. -/
def commandWord (op len : BitVec 4) (data : Byte) : Word :=
  0#8 ++ data ++ 0#4 ++ len ++ 0#4 ++ op

/-- `enc(command)` of 30_encoding.md R46: OP from the opcode map R42, absent fields 0.
A LEN that does not fit (an ill-formed command) is cut to 4 bits. -/
def encode : Instr → Word
  | .nop => commandWord 0x0 0 0
  | .crcInit => commandWord 0x1 0 0
  | .crcFeed data => commandWord 0x2 0 data
  | .crcBuf len => commandWord 0x3 (BitVec.ofNat 4 len) 0
  | .crcVerify len => commandWord 0x4 (BitVec.ofNat 4 len) 0
  | .unpack len => commandWord 0x5 (BitVec.ofNat 4 len) 0
  | .pack len => commandWord 0x6 (BitVec.ofNat 4 len) 0
  | .packMeasureCmd => commandWord 0x7 0 0
  | .packInitCmd => commandWord 0x8 0 0
  | .convHum => commandWord 0x9 0 0
  | .convTemp => commandWord 0xA 0 0
  | .unpackConvert len => commandWord 0xB (BitVec.ofNat 4 len) 0

/-- The word the opcode table means by `nbits` bits of value `w`: bits above `nbits` are 0. -/
def tableWord (nbits w : Nat) : Word := BitVec.ofNat 32 (w % 2 ^ nbits)

/-- The command the decoder reads from a word given as the opcode table numbers it. A command is
exactly one 32-bit word, never bytes in memory (30_encoding.md R45), so no byte order enters. -/
def decodeTableWord (nbits w : Nat) : Option Instr :=
  match decode (tableWord nbits w) with
  | .command i => some i
  | .illegal _ => none

end Sys2Proof
end

