-- ==== Sys2Proof/Config.lean ====
section
/-! DEFINITION. The one parameter the spec leaves OPEN: where the platform maps the register window. -/

namespace Sys2Proof

/-- Which 64-byte slot of the host's address space the window occupies.
It has no body, so no proof can depend on its value (00_scope.md R6, 92_eei_decisions.md D2; log entry 5). -/
opaque Config.baseIndex : Nat

/-- `BASE`, the host address of the register window: "OPEN parameter, any multiple of 64" (00_scope.md R6). -/
def Config.base : Nat := 64 * Config.baseIndex

end Sys2Proof
end

