-- ==== Sys2Proof/Machine/State.lean ====
section
/-! DEFINITION. The state of the block, the host's operations on it, and the reasons a step can stop. -/

namespace Sys2Proof.Machine

/-- A register of the window by its name in the table of 10_state.md R14. -/
inductive Reg where
  | ctrl | cmd | status | crc | buf0 | buf1 | statByte | humRaw | tempRaw
  | humOutLo | humOutHi | tempOutLo | tempOutHi
  deriving DecidableEq, Repr

/-- A word slot of the window: a register, or one of the reserved slots 0x34, 0x38, 0x3C (20_memory.md R26). -/
inductive Slot where
  | reg (r : Reg)
  | reserved
  deriving DecidableEq, Repr

/-- A host address, in either of the two ways a host program writes one: relative to the window, as
`BASE + offset` (30_encoding.md R47), or as a plain address of the host's space (20_memory.md R25).
Log entry 5. -/
inductive HostAddr where
  /-- `BASE + off`. -/
  | base (off : Nat)
  /-- The host address `a`. -/
  | abs (a : Nat)
  deriving DecidableEq, Repr

/-- One thing the host does (20_memory.md R39). -/
inductive HostOp where
  /-- `MemRead(addr, n)` (00_scope.md R8). -/
  | read (addr : HostAddr) (n : Nat)
  /-- `MemWrite(addr, n, v)` (00_scope.md R8). Only n = 4 is admitted, so `v` is a 32-bit word (log entry 10). -/
  | write (addr : HostAddr) (n : Nat) (v : Word)
  /-- Power-up, one cause of the reset event (70_reset_and_hazards.md R140). -/
  | powerUp
  /-- The platform asserts the reset input, the other cause (R140). -/
  | assertReset
  /-- The platform releases the reset input (R140). -/
  | releaseReset
  deriving DecidableEq, Repr

/-- The registers of 10_state.md R14, each stored as its defined bits (R15: reserved bits "are never
stored"), and after them the host's side of the interface (log entry 1). -/
@[ext]
structure State where
  /-- CTRL.CRC_EN, bit 0 of CTRL (R16). -/
  crcEn : Bool
  /-- STATUS.ERR, bits 3:0 of STATUS (R19). -/
  err : BitVec 4
  /-- STATUS.RAW_VALID, bit 4 of STATUS (R19). -/
  rawValid : Bool
  /-- STATUS.OUT_VALID, bit 5 of STATUS (R19). -/
  outValid : Bool
  /-- CRC bits 7:0, the accumulator (R20). -/
  crc : Byte
  /-- BUF0: frame buffer bytes 0..3 (R18). -/
  buf0 : Word
  /-- BUF1: frame buffer bytes 4..7 (R18). -/
  buf1 : Word
  /-- STAT_BYTE bits 7:0 (R21). -/
  statByte : Byte
  /-- HUM_RAW (R21). -/
  humRaw : Word
  /-- TEMP_RAW (R21). -/
  tempRaw : Word
  /-- HUM_OUT_LO: humidity, binary64 bits 31:0 (R22). -/
  humOutLo : Word
  /-- HUM_OUT_HI: humidity, binary64 bits 63:32 (R22). -/
  humOutHi : Word
  /-- TEMP_OUT_LO: temperature, binary64 bits 31:0 (R22). -/
  tempOutLo : Word
  /-- TEMP_OUT_HI: temperature, binary64 bits 63:32 (R22). -/
  tempOutHi : Word
  /-- Model's own: the reset input is asserted, "a wire of the platform, not a register" (70_reset_and_hazards.md R140). -/
  resetIn : Bool
  /-- Model's own: the host's operations not yet made, first one first (70_reset_and_hazards.md R148). -/
  program : List HostOp
  /-- Model's own: the words the host's reads returned, oldest first (20_memory.md R29). -/
  responses : List Word
  deriving DecidableEq, Repr

/-- The block right after reset: every register at the value 70_reset_and_hazards.md R140 lists, the
reset input released, and a host that has done nothing yet (log entry 11). -/
def State.reset : State where
  crcEn := false
  err := 0
  rawValid := false
  outValid := false
  crc := 0xFF
  buf0 := 0
  buf1 := 0
  statByte := 0
  humRaw := 0
  tempRaw := 0
  humOutLo := 0
  humOutHi := 0
  tempOutLo := 0
  tempOutHi := 0
  resetIn := false
  program := []
  responses := []

/-- Why a host access has no step. -/
inductive Fault where
  /-- An access that 20_memory.md R27 does not admit; raised by a host read or write (R28).
  Safe: the spec says the model faults, and nothing is claimed of real hardware. Log entry 3. -/
  | notAdmitted
  /-- An access while the reset input is asserted; raised by a host read or write
  (70_reset_and_hazards.md R140). Safe, for the same reason. Log entry 3. -/
  | accessInReset
  deriving DecidableEq, Repr

/-- Why an instruction has no meaning in the model. -/
inductive Refusal where
  /-- Raised by an arm of exec that has no meaning yet; safe. Every instruction of this hardware has
  its meaning, so nothing raises it. -/
  | notModelled (mnemonic : String)
  deriving DecidableEq, Repr

end Sys2Proof.Machine
end

