-- ==== Sys2Proof/Machine/Flags.lean ====
section
/-! DEFINITION. STATUS, its flags and its error codes, and the register words the host reads. -/

namespace Sys2Proof.Machine

/-- The errors a command can raise (60_exceptions.md R110). -/
inductive ErrKind where
  | illegalCommand
  | invalidArgument
  | invalidFrame
  | checksumMismatch
  deriving DecidableEq, Repr

/-- `code(E)`, the value of STATUS.ERR for each error (60_exceptions.md R110). -/
def ErrKind.code : ErrKind → BitVec 4
  | .illegalCommand => 1
  | .invalidArgument => 2
  | .invalidFrame => 3
  | .checksumMismatch => 4

/-- ERR of a command that raised nothing: OK (60_exceptions.md R110). -/
def errOk : BitVec 4 := 0

/-! ### Flag updates (10_state.md R23) -/

/-- Both flags cleared: what a failing UNPACK or UNPACK_CONVERT does before it raises. -/
def State.invalidate (s : State) : State := { s with rawValid := false, outValid := false }

/-- The flags after a successful UNPACK: RAW_VALID 1, OUT_VALID 0. -/
def State.flagsUnpacked (s : State) : State := { s with rawValid := true, outValid := false }

/-- The flags after a successful UNPACK_CONVERT: both 1. -/
def State.flagsConverted (s : State) : State := { s with rawValid := true, outValid := true }

/-- OUT_VALID cleared, RAW_VALID kept: what CONV_HUM and CONV_TEMP do. -/
def State.clearOutValid (s : State) : State := { s with outValid := false }

/-- RAW_VALID cleared, OUT_VALID kept: what a host write to STAT_BYTE, HUM_RAW or TEMP_RAW does. -/
def State.clearRawValid (s : State) : State := { s with rawValid := false }

/-! ### Register words as the host reads them (20_memory.md R29) -/

/-- x[CTRL]: bit 0 is CRC_EN, bits 31:1 read 0 (10_state.md R16). -/
def State.ctrlWord (s : State) : Word := 0#31 ++ BitVec.ofBool s.crcEn

/-- x[STATUS]: bits 3:0 ERR, bit 4 RAW_VALID, bit 5 OUT_VALID, bits 31:6 read 0 (10_state.md R19). -/
def State.statusWord (s : State) : Word :=
  0#26 ++ BitVec.ofBool s.outValid ++ BitVec.ofBool s.rawValid ++ s.err

/-- x[CRC]: bits 31:8 read 0 (10_state.md R20). -/
def State.crcWord (s : State) : Word := s.crc.setWidth 32

/-- x[STAT_BYTE]: bits 31:8 read 0 (10_state.md R21). -/
def State.statByteWord (s : State) : Word := s.statByte.setWidth 32

end Sys2Proof.Machine
end

