-- ==== Sys2Proof/Machine/Operands.lean ====
section
/-! DEFINITION. The operands of the commands: the frame buffer as bytes, LEN legality, the frame's
fields, and the 64-bit results as pairs of words. -/

namespace Sys2Proof.Machine

/-! ### Bytes of a word (20_memory.md R31) -/

/-- Byte k of a word, little-endian: bits 8k+7 down to 8k (20_memory.md R31). -/
def byteOf (w : Word) (k : Nat) : Byte := w.extractLsb' (8 * k) 8

/-- The word with byte k replaced; "changes only those 8 bits" (10_state.md R18). -/
def setByteOf (w : Word) (k : Nat) (b : Byte) : Word :=
  (w &&& ~~~(0xFF#32 <<< (8 * k))) ||| (b.setWidth 32 <<< (8 * k))

/-! ### The frame buffer (10_state.md R18) -/

/-- `buf[i]`: bytes 0..3 are BUF0's, bytes 4..7 are BUF1's. -/
def State.buf (s : State) (i : Fin 8) : Byte :=
  if i.val < 4 then byteOf s.buf0 i.val else byteOf s.buf1 (i.val - 4)

/-- `buf[i] <- b`. -/
def State.setBuf (s : State) (i : Fin 8) (b : Byte) : State :=
  { s with
    buf0 := if i.val < 4 then setByteOf s.buf0 i.val b else s.buf0
    buf1 := if i.val < 4 then s.buf1 else setByteOf s.buf1 (i.val - 4) b }

/-- The byte sequence `buf[0 .. n-1]` (00_scope.md R8); empty when n = 0. It has at most 8 bytes. -/
def State.bufBytes (s : State) (n : Nat) : List Byte :=
  [s.buf 0, s.buf 1, s.buf 2, s.buf 3, s.buf 4, s.buf 5, s.buf 6, s.buf 7].take n

/-! ### LEN legality (30_encoding.md R48) -/

/-- The LEN values CRC_BUF accepts: 0..8. -/
def crcBufAccepts (len : Nat) : Bool := decide (len ≤ 8)

/-- The LEN values CRC_VERIFY accepts: 1..8. -/
def crcVerifyAccepts (len : Nat) : Bool := decide (1 ≤ len ∧ len ≤ 8)

/-- The LEN values UNPACK, UNPACK_CONVERT and PACK accept: 6 and 7, the two frame lengths. -/
def frameLenAccepts (len : Nat) : Bool := decide (len = 6 ∨ len = 7)

/-! ### The frame's fields (41_frame_codec.md R70, R71, R74) -/

/-- (s, H, T): the status byte and the two raw 20-bit values of a frame. -/
structure Reading where
  status : Byte
  hum : BitVec 20
  temp : BitVec 20
  deriving DecidableEq, Repr

/-- `decode_fields()` (41_frame_codec.md R71). -/
def State.decodeFields (s : State) : Reading where
  status := s.buf 0
  hum := ((s.buf 1 ++ s.buf 2 ++ s.buf 3) >>> 4).setWidth 20
  temp := ((s.buf 3 ++ s.buf 4 ++ s.buf 5) &&& 0xFFFFF#24).setWidth 20

/-- `encode_fields(s, H, T)` (41_frame_codec.md R74): writes buf[0..5] and no other byte. -/
def State.encodeFields (s : State) (r : Reading) : State :=
  (((((s.setBuf 0 r.status).setBuf 1 (r.hum.extractLsb' 12 8)).setBuf 2 (r.hum.extractLsb' 4 8)).setBuf 3
    (r.hum.extractLsb' 0 4 ++ r.temp.extractLsb' 16 4)).setBuf 4 (r.temp.extractLsb' 8 8)).setBuf 5
    (r.temp.extractLsb' 0 8)

/-- STAT_BYTE, HUM_RAW and TEMP_RAW take a reading, zero-extended (41_frame_codec.md R73). -/
def State.setReading (s : State) (r : Reading) : State :=
  { s with statByte := r.status, humRaw := r.hum.setWidth 32, tempRaw := r.temp.setWidth 32 }

/-- A raw register fits a frame field: bits 31:20 are 0 (41_frame_codec.md R75). -/
def fitsField (raw : Word) : Bool := raw.extractLsb' 20 12 == 0

/-- The reading PACK places in the buffer: x[STAT_BYTE][7:0], x[HUM_RAW][19:0], x[TEMP_RAW][19:0] (R75). -/
def State.rawReading (s : State) : Reading where
  status := s.statByte
  hum := s.humRaw.extractLsb' 0 20
  temp := s.tempRaw.extractLsb' 0 20

/-- `buf[0..2]` take a fixed 3-byte command frame (41_frame_codec.md R77, R78). -/
def State.setCommandFrame (s : State) (b0 b1 b2 : Byte) : State :=
  ((s.setBuf 0 b0).setBuf 1 b1).setBuf 2 b2

/-! ### The 64-bit results (10_state.md R22) -/

/-- HUM_OUT = x[HUM_OUT_HI] ++ x[HUM_OUT_LO]. -/
def State.humOut (s : State) : BitVec 64 := s.humOutHi ++ s.humOutLo

/-- TEMP_OUT = x[TEMP_OUT_HI] ++ x[TEMP_OUT_LO]. -/
def State.tempOut (s : State) : BitVec 64 := s.tempOutHi ++ s.tempOutLo

/-- HUM_OUT takes a result: LO gets bits 31:0, HI gets bits 63:32. -/
def State.setHumOut (s : State) (r : BitVec 64) : State :=
  { s with humOutLo := r.extractLsb' 0 32, humOutHi := r.extractLsb' 32 32 }

/-- TEMP_OUT takes a result: LO gets bits 31:0, HI gets bits 63:32. -/
def State.setTempOut (s : State) (r : BitVec 64) : State :=
  { s with tempOutLo := r.extractLsb' 0 32, tempOutHi := r.extractLsb' 32 32 }

end Sys2Proof.Machine
end

