-- ==== Sys2Proof/Machine/Ops.lean ====
section
/-! DEFINITION. The operations the commands share: how a command ends, the checksum, the frame gate,
the binary64 encoding, and the registers of the window by slot. -/

namespace Sys2Proof.Machine

/-! ### How a command ends (43_control.md R100, 60_exceptions.md R118) -/

/-- A command that raised nothing ends with `x[STATUS].ERR <- 0` (43_control.md R100). -/
def complete (s : State) : Host.Outcome State Fault Refusal := .next { s with err := errOk }

/-- `raise E` (60_exceptions.md R118): ERR takes the code and the command ends; the writes made before
stand. This is the block's whole error reporting: "The block takes no trap" (R117), nothing is saved,
and "There is no trap return and no nesting" (R119), so no return operation stands beside it. -/
def raiseError (e : ErrKind) (s : State) : Host.Outcome State Fault Refusal := .next { s with err := e.code }

/-! ### The checksum (40_checksum.md R50, R51) -/

/-- The CRC polynomial (00_scope.md R6). -/
def crcPoly : Byte := 0x31

/-- The CRC initial value (00_scope.md R6). -/
def crcInitValue : Byte := 0xFF

/-- The CRC final XOR (00_scope.md R6; 92_eei_decisions.md D13). -/
def crcXorOut : Byte := 0x00

/-- One bit of `crc8_step`: shift left, and subtract the polynomial when c[7] was 1 (40_checksum.md R51). -/
def crcShift (c : Byte) : Byte := if c.getLsbD 7 then (c <<< 1) ^^^ crcPoly else c <<< 1

/-- `n` bits of `crc8_step`. -/
def crcShifts : Nat → Byte → Byte
  | 0, c => c
  | n + 1, c => crcShifts n (crcShift c)

/-- `crc8_step(c, b)` (40_checksum.md R51): fold one byte, most significant bit first. -/
def crc8Step (c b : Byte) : Byte := crcShifts 8 (c ^^^ b)

/-- `crc8(seq)` (40_checksum.md R50): bytes in sequence order, index 0 first. -/
def crc8 (seq : List Byte) : Byte := seq.foldl crc8Step crcInitValue ^^^ crcXorOut

/-! ### The frame (40_checksum.md R57, 41_frame_codec.md R73) -/

/-- The CRC write of the frame gate: a 7-byte frame's checksum is recorded "always, whatever CRC_EN is" (R57). -/
def State.gateCrc (s : State) (n : Nat) : State :=
  { s with crc := if n = 7 then crc8 (s.bufBytes 6) else s.crc }

/-- Whether the frame gate passes, after its CRC write (R57): with CRC_EN = 1 a 6-byte frame never
passes, and a 7-byte frame passes only when the recorded checksum is buf[6]. -/
def State.gatePasses (s : State) (n : Nat) : Bool :=
  !s.crcEn || (n != 6 && s.crc == s.buf 6)

/-- The part UNPACK and UNPACK_CONVERT share (41_frame_codec.md R73, 42_unit_converter.md R97): the
length check, the frame gate, and, when both pass, `accept` with the decoded fields in the registers.
A failure clears both flags and raises. -/
def withFrame (len : Nat) (s : State) (accept : State → State) : Host.Outcome State Fault Refusal :=
  if frameLenAccepts len then
    if (s.gateCrc len).gatePasses len then
      complete (accept ((s.gateCrc len).setReading s.decodeFields))
    else raiseError .checksumMismatch (s.gateCrc len).invalidate
  else raiseError .invalidFrame s.invalidate

/-- The checksum byte of a 7-byte frame: buf[6] and CRC take crc8(buf[0..5]) (41_frame_codec.md R75). -/
def State.sealFrame (s : State) : State :=
  { s.setBuf 6 (crc8 (s.bufBytes 6)) with crc := crc8 (s.bufBytes 6) }

/-! ### The unit converter (42_unit_converter.md R90 to R92) -/

/-- `to_binary64(N)` (42_unit_converter.md R90): the binary64 encoding of N / 2^20, exact for |N| < 2^53.
Sign bit, exponent field E = k - 20 + 1023 with k the place of the leading 1, and the 52 bits after it.
A zero is +0.0. Outside |N| < 2^53, where R90 says nothing, no command calls it (log entry 7). -/
def toBinary64 (N : Int) : BitVec 64 :=
  if N = 0 then 0
  else
    let m := N.natAbs
    let k := m.log2
    let sgn := if N < 0 then 1 else 0
    let E := k + 1023 - 20
    let F := m <<< (52 - k) - 2 ^ 52
    BitVec.ofNat 64 ((sgn <<< 63) ||| (E <<< 52) ||| F)

/-- The humidity numerator N_h = raw * 100 (42_unit_converter.md R91). -/
def humidityNum (raw : Nat) : Int := raw * 100

/-- The temperature numerator N_t = raw * 200 - 52428800, where 52428800 = 50 * 2^20 (42_unit_converter.md R92). -/
def temperatureNum (raw : Nat) : Int := raw * 200 - 52428800

/-- The encoded humidity of an unsigned operand (42_unit_converter.md R91). -/
def humidityBits (raw : Nat) : BitVec 64 := toBinary64 (humidityNum raw)

/-- The encoded temperature of an unsigned operand (42_unit_converter.md R92). -/
def temperatureBits (raw : Nat) : BitVec 64 := toBinary64 (temperatureNum raw)

/-- HUM_OUT takes the conversion of HUM_RAW, all 32 bits (42_unit_converter.md R95). -/
def State.convertHum (s : State) : State := s.setHumOut (humidityBits s.humRaw.toNat)

/-- TEMP_OUT takes the conversion of TEMP_RAW, all 32 bits (42_unit_converter.md R96). -/
def State.convertTemp (s : State) : State := s.setTempOut (temperatureBits s.tempRaw.toNat)

/-! ### The reset event (70_reset_and_hazards.md R140) -/

/-- "At reset every register takes the reset value": the host's side keeps what it holds. -/
def State.resetRegisters (s : State) : State :=
  { State.reset with resetIn := s.resetIn, program := s.program, responses := s.responses }

/-! ### The window (10_state.md R14, 20_memory.md R25 to R30) -/

/-- The offset of each register (10_state.md R14). -/
def Reg.offset : Reg → Nat
  | .ctrl => 0x00
  | .cmd => 0x04
  | .status => 0x08
  | .crc => 0x0C
  | .buf0 => 0x10
  | .buf1 => 0x14
  | .statByte => 0x18
  | .humRaw => 0x1C
  | .tempRaw => 0x20
  | .humOutLo => 0x24
  | .humOutHi => 0x28
  | .tempOutLo => 0x2C
  | .tempOutHi => 0x30

/-- The slot at an offset that 20_memory.md R27 admits; 0x34, 0x38 and 0x3C are reserved (R26). -/
def slotAt : Nat → Slot
  | 0x00 => .reg .ctrl
  | 0x04 => .reg .cmd
  | 0x08 => .reg .status
  | 0x0C => .reg .crc
  | 0x10 => .reg .buf0
  | 0x14 => .reg .buf1
  | 0x18 => .reg .statByte
  | 0x1C => .reg .humRaw
  | 0x20 => .reg .tempRaw
  | 0x24 => .reg .humOutLo
  | 0x28 => .reg .humOutHi
  | 0x2C => .reg .tempOutLo
  | 0x30 => .reg .tempOutHi
  | _ => .reserved

/-- The host address an operation names: `BASE + off`, or the address itself. -/
def HostAddr.value : HostAddr → Nat
  | .base off => Config.base + off
  | .abs a => a

/-- `off = addr - BASE` (20_memory.md R27); none below the window. -/
def HostAddr.offset? : HostAddr → Option Nat
  | .base off => some off
  | .abs a => if Config.base ≤ a then some (a - Config.base) else none

/-- The slot an access of n bytes touches, when 20_memory.md R27 admits it: n = 4, the address a multiple
of 4 (BASE is one, so the offset is), and the offset at most 0x3C. -/
def admittedSlot (addr : HostAddr) (n : Nat) : Option Slot :=
  match addr.offset? with
  | none => none
  | some off => if n = 4 ∧ off % 4 = 0 ∧ off ≤ 0x3C then some (slotAt off) else none

/-- x[NAME] as the host reads it (20_memory.md R29). CMD stores nothing and reads 0. -/
def Reg.read (s : State) : Reg → Word
  | .ctrl => s.ctrlWord
  | .cmd => 0
  | .status => s.statusWord
  | .crc => s.crcWord
  | .buf0 => s.buf0
  | .buf1 => s.buf1
  | .statByte => s.statByteWord
  | .humRaw => s.humRaw
  | .tempRaw => s.tempRaw
  | .humOutLo => s.humOutLo
  | .humOutHi => s.humOutHi
  | .tempOutLo => s.tempOutLo
  | .tempOutHi => s.tempOutHi

/-- The word an admitted read returns (20_memory.md R29); a reserved slot reads 0. -/
def Slot.read (s : State) : Slot → Word
  | .reg r => r.read s
  | .reserved => 0

/-- An admitted write to a register other than CMD (20_memory.md R30): reserved bits dropped, read-only
registers unchanged, RAW_VALID cleared by a write to STAT_BYTE, HUM_RAW or TEMP_RAW. A write to CMD
stores nothing (10_state.md R17); the command it runs is `execute`, in HostAccess.lean. -/
def Reg.store (s : State) (v : Word) : Reg → State
  | .ctrl => { s with crcEn := v.getLsbD 0 }
  | .cmd => s
  | .status => s
  | .crc => s
  | .buf0 => { s with buf0 := v }
  | .buf1 => { s with buf1 := v }
  | .statByte => { s with statByte := v.extractLsb' 0 8 }.clearRawValid
  | .humRaw => { s with humRaw := v }.clearRawValid
  | .tempRaw => { s with tempRaw := v }.clearRawValid
  | .humOutLo => s
  | .humOutHi => s
  | .tempOutLo => s
  | .tempOutHi => s

end Sys2Proof.Machine
end

