-- ==== Sys2Proof/Machine/Checksum.lean ====
section
/-! DEFINITION. The checksum commands: CRC_INIT, CRC_FEED, CRC_BUF, CRC_VERIFY. -/

namespace Sys2Proof.Machine

/-- CRC_INIT (40_checksum.md R53). -/
def execCrcInit (s : State) : Host.Outcome State Fault Refusal := complete { s with crc := crcInitValue }

/-- CRC_FEED (40_checksum.md R54). -/
def execCrcFeed (data : Byte) (s : State) : Host.Outcome State Fault Refusal :=
  complete { s with crc := crc8Step s.crc data }

/-- CRC_BUF (40_checksum.md R55). -/
def execCrcBuf (len : Nat) (s : State) : Host.Outcome State Fault Refusal :=
  if crcBufAccepts len then complete { s with crc := crc8 (s.bufBytes len) }
  else raiseError .invalidArgument s

/-- CRC_VERIFY (40_checksum.md R56): CRC takes the computed checksum even when it does not match
buf[LEN-1]. -/
def execCrcVerify (len : Nat) (s : State) : Host.Outcome State Fault Refusal :=
  if crcVerifyAccepts len then
    if crc8 (s.bufBytes (len - 1)) = s.buf (Fin.ofNat 8 (len - 1)) then
      complete { s with crc := crc8 (s.bufBytes (len - 1)) }
    else raiseError .checksumMismatch { s with crc := crc8 (s.bufBytes (len - 1)) }
  else raiseError .invalidArgument s

end Sys2Proof.Machine
end

