-- ==== Sys2Proof/Machine/Control.lean ====
section
/-! DEFINITION. The control command: NOP. -/

namespace Sys2Proof.Machine

/-- NOP (43_control.md R101): only the final ERR <- 0 takes effect. -/
def execNop (s : State) : Host.Outcome State Fault Refusal := complete s

end Sys2Proof.Machine
end

