-- ==== Sys2Proof/Machine/Converter.lean ====
section
/-! DEFINITION. The unit converter commands: CONV_HUM, CONV_TEMP, UNPACK_CONVERT. -/

namespace Sys2Proof.Machine

/-- CONV_HUM (42_unit_converter.md R95). -/
def execConvHum (s : State) : Host.Outcome State Fault Refusal := complete s.convertHum.clearOutValid

/-- CONV_TEMP (42_unit_converter.md R96). -/
def execConvTemp (s : State) : Host.Outcome State Fault Refusal := complete s.convertTemp.clearOutValid

/-- UNPACK_CONVERT (42_unit_converter.md R97): the raw registers hold H and T, zero-extended, when they
are converted. -/
def execUnpackConvert (len : Nat) (s : State) : Host.Outcome State Fault Refusal :=
  withFrame len s fun t => t.convertHum.convertTemp.flagsConverted

end Sys2Proof.Machine
end

