-- ==== Sys2Proof/Machine/FrameCodec.lean ====
section
/-! DEFINITION. The frame codec commands: UNPACK, PACK, PACK_MEASURE_CMD, PACK_INIT_CMD. -/

namespace Sys2Proof.Machine

/-- UNPACK (41_frame_codec.md R73). -/
def execUnpack (len : Nat) (s : State) : Host.Outcome State Fault Refusal :=
  withFrame len s State.flagsUnpacked

/-- PACK (41_frame_codec.md R75): the length is checked first, then the 20-bit range. -/
def execPack (len : Nat) (s : State) : Host.Outcome State Fault Refusal :=
  if frameLenAccepts len then
    if fitsField s.humRaw && fitsField s.tempRaw then
      complete (if len = 7 then (s.encodeFields s.rawReading).sealFrame else s.encodeFields s.rawReading)
    else raiseError .invalidArgument s
  else raiseError .invalidFrame s

/-- PACK_MEASURE_CMD (41_frame_codec.md R77): the measure trigger AC 33 00. -/
def execPackMeasureCmd (s : State) : Host.Outcome State Fault Refusal :=
  complete (s.setCommandFrame 0xAC 0x33 0x00)

/-- PACK_INIT_CMD (41_frame_codec.md R78): the init frame BE 08 00. -/
def execPackInitCmd (s : State) : Host.Outcome State Fault Refusal :=
  complete (s.setCommandFrame 0xBE 0x08 0x00)

end Sys2Proof.Machine
end

