-- ==== Sys2Proof/Machine/Dispatch.lean ====
section
/-! DEFINITION. Running a decoded command: one arm for each row of spec/opcode_table.json. -/

namespace Sys2Proof.Machine

def exec (i : Instr) (s : State) : Host.Outcome State Fault Refusal :=
  match i with
  | .nop => Sys2Proof.Machine.execNop s
  | .crcInit => Sys2Proof.Machine.execCrcInit s
  | .crcFeed data => Sys2Proof.Machine.execCrcFeed data s
  | .crcBuf len => Sys2Proof.Machine.execCrcBuf len s
  | .crcVerify len => Sys2Proof.Machine.execCrcVerify len s
  | .unpack len => Sys2Proof.Machine.execUnpack len s
  | .pack len => Sys2Proof.Machine.execPack len s
  | .packMeasureCmd => Sys2Proof.Machine.execPackMeasureCmd s
  | .packInitCmd => Sys2Proof.Machine.execPackInitCmd s
  | .convHum => Sys2Proof.Machine.execConvHum s
  | .convTemp => Sys2Proof.Machine.execConvTemp s
  | .unpackConvert len => Sys2Proof.Machine.execUnpackConvert len s

end Sys2Proof.Machine
end

