-- ==== Sys2Proof/Machine/HostAccess.lean ====
section
/-! DEFINITION. What the host's operations do to the block: reads, writes, commands and reset. -/

namespace Sys2Proof.Machine

/-- `execute(w)` (43_control.md R100): decode first; an illegal word raises IllegalCommand (R102). -/
def execute (w : Word) (s : State) : Host.Outcome State Fault Refusal :=
  match decode w with
  | .command i => exec i s
  | .illegal _ => raiseError .illegalCommand s

/-- An admitted write (20_memory.md R30): a write to CMD executes the word, any other is stored. -/
def Slot.write (s : State) (v : Word) : Slot → Host.Outcome State Fault Refusal
  | .reg .cmd => execute v s
  | .reg r => .next (r.store s v)
  | .reserved => .next s

/-- `MemRead(addr, n)` (20_memory.md R28, R29): the word goes to the host, and no register changes. -/
def memRead (addr : HostAddr) (n : Nat) (s : State) : Host.Outcome State Fault Refusal :=
  if s.resetIn then .fault .accessInReset
  else
    match admittedSlot addr n with
    | none => .fault .notAdmitted
    | some slot => .next { s with responses := s.responses ++ [slot.read s] }

/-- `MemWrite(addr, n, v)` (20_memory.md R28, R30). -/
def memWrite (addr : HostAddr) (n : Nat) (v : Word) (s : State) : Host.Outcome State Fault Refusal :=
  if s.resetIn then .fault .accessInReset
  else
    match admittedSlot addr n with
    | none => .fault .notAdmitted
    | some slot => slot.write s v

/-- One operation of the host (20_memory.md R39, 70_reset_and_hazards.md R140). Power-up and the
assertion of the reset input reset every register; while it is asserted, an access faults; its
release changes nothing else. -/
def hostOp (op : HostOp) (s : State) : Host.Outcome State Fault Refusal :=
  match op with
  | .read addr n => memRead addr n s
  | .write addr n v => memWrite addr n v s
  | .powerUp => .next s.resetRegisters
  | .assertReset => .next { s.resetRegisters with resetIn := true }
  | .releaseReset => .next { s with resetIn := false }

/-- `s` with the operation that carries a command word put first in the host's program, and the
reset input released so that the operation is served. -/
def State.withCommandFirst (s : State) (w : Word) : State :=
  { s with program := .write (.base Reg.cmd.offset) 4 w :: s.program, resetIn := false }

end Sys2Proof.Machine
end

