-- ==== Sys2Proof/Machine/Step.lean ====
section
/-! DEFINITION. One step of the machine: the host's next operation. -/

namespace Sys2Proof.Machine

/-- The host's next operation is made, in program order, and is complete before the step ends
(20_memory.md R34, 43_control.md R100). With none left nothing happens: "The block starts nothing by
itself" (20_memory.md R24; log entry 2). -/
def step (s : State) : Host.Outcome State Fault Refusal :=
  match s.program with
  | [] => .next s
  | op :: rest => hostOp op { s with program := rest }

/-- `s` with a command word of the opcode table placed where the next step takes it: the host's next
operation is the write of that word to CMD (30_encoding.md R40; log entry 1). -/
def State.withFetchWord (s : State) (nbits w : Nat) : State := s.withCommandFirst (tableWord nbits w)

end Sys2Proof.Machine
end

