-- ==== Sys2Proof/Machine/Assembler.lean ====
section
/-! DEFINITION. The command syntax of 30_encoding.md R46: a line of text to a command and its word. -/

namespace Sys2Proof.Machine

/-- The mnemonics of the opcode table. -/
inductive Mnemonic where
  | NOP | CRC_INIT | CRC_FEED | CRC_BUF | CRC_VERIFY | UNPACK | PACK | PACK_MEASURE_CMD | PACK_INIT_CMD
  | CONV_HUM | CONV_TEMP | UNPACK_CONVERT
  deriving DecidableEq, Repr

/-- How each mnemonic is spelled. -/
def Mnemonic.table : List (String × Mnemonic) :=
  [("NOP", .NOP), ("CRC_INIT", .CRC_INIT), ("CRC_FEED", .CRC_FEED), ("CRC_BUF", .CRC_BUF),
   ("CRC_VERIFY", .CRC_VERIFY), ("UNPACK", .UNPACK), ("PACK", .PACK),
   ("PACK_MEASURE_CMD", .PACK_MEASURE_CMD), ("PACK_INIT_CMD", .PACK_INIT_CMD),
   ("CONV_HUM", .CONV_HUM), ("CONV_TEMP", .CONV_TEMP), ("UNPACK_CONVERT", .UNPACK_CONVERT)]

/-- The mnemonic a word of text spells. -/
def Mnemonic.ofText (text : List Char) : Option Mnemonic :=
  (Mnemonic.table.find? fun row => row.1.toList == text).map Prod.snd

/-- A command that takes no operand. -/
def plainCommand (i : Instr) : Option Nat → Option Instr
  | none => some i
  | some _ => none

/-- A LENCMD: "number 0..15 -> LEN". -/
def lenCommand (f : Nat → Instr) : Option Nat → Option Instr
  | none => none
  | some n => if n ≤ 15 then some (f n) else none

/-- CRC_FEED: "number 0..255 -> DATA". -/
def dataCommand (f : Byte → Instr) : Option Nat → Option Instr
  | none => none
  | some n => if n ≤ 255 then some (f (BitVec.ofNat 8 n)) else none

/-- The command a mnemonic and its operand spell. "An operand outside its field's range is refused by
the assembler: it spells no command" (R46); an in-range LEN the command does not accept assembles. -/
def assemble (m : Mnemonic) (operand : Option Nat) : Option Instr :=
  match m with
  | .NOP => plainCommand .nop operand
  | .CRC_INIT => plainCommand .crcInit operand
  | .CRC_FEED => dataCommand .crcFeed operand
  | .CRC_BUF => lenCommand .crcBuf operand
  | .CRC_VERIFY => lenCommand .crcVerify operand
  | .UNPACK => lenCommand .unpack operand
  | .PACK => lenCommand .pack operand
  | .PACK_MEASURE_CMD => plainCommand .packMeasureCmd operand
  | .PACK_INIT_CMD => plainCommand .packInitCmd operand
  | .CONV_HUM => plainCommand .convHum operand
  | .CONV_TEMP => plainCommand .convTemp operand
  | .UNPACK_CONVERT => lenCommand .unpackConvert operand

/-- The value of a digit in a base of at most 16; both letter cases are taken (log entry 12). -/
def digitValue (base : Nat) (c : Char) : Option Nat :=
  (("0123456789abcdef".toList.take base).findIdx? (· == c)).or
    (("0123456789ABCDEF".toList.take base).findIdx? (· == c))

/-- The value of digits, most significant first, after those already read. -/
def digitsValue (base : Nat) : Nat → List Char → Option Nat
  | acc, [] => some acc
  | acc, c :: rest =>
    match digitValue base c with
    | none => none
    | some d => digitsValue base (acc * base + d) rest

/-- `number ::= decimal | 0x hexadecimal`, with at least one digit (R46). -/
def numberValue : List Char → Option Nat
  | [] => none
  | ['0', 'x'] => none
  | '0' :: 'x' :: digits => digitsValue 16 0 digits
  | digits => digitsValue 10 0 digits

/-- The words of a line: its longest pieces without a space (log entry 12). -/
def lineWords (line : List Char) : List (List Char) := (line.splitOn ' ').filter (· ≠ [])

/-- The command a line of text spells, if any (R46). -/
def parseCommand (line : List Char) : Option Instr :=
  match lineWords line with
  | [m] =>
    match Mnemonic.ofText m with
    | none => none
    | some mnemonic => assemble mnemonic none
  | [m, number] =>
    match Mnemonic.ofText m, numberValue number with
    | some mnemonic, some n => assemble mnemonic (some n)
    | _, _ => none
  | _ => none

/-- The word the assembler emits for a line, if any: "The assembler never emits an illegal word" (R46). -/
def assembleLine (line : List Char) : Option Word := (parseCommand line).map encode

end Sys2Proof.Machine
end

