-- ==== Sys2Proof/Machine/HostProgram.lean ====
section
/-! DEFINITION. Host programs: the forms of 30_encoding.md R47 with their expansions, and the run of a
program (70_reset_and_hazards.md R148). -/

namespace Sys2Proof.Machine

/-- A line of a host program (30_encoding.md R47). -/
inductive HostForm where
  /-- `wr REG, value`. -/
  | wr (r : Reg) (value : Word)
  /-- `rd REG`, or `rd REG = value`, which "also states the expected result". -/
  | rd (r : Reg) (expected : Option Word)
  /-- `cmd command`. -/
  | cmd (command : Instr)
  | crcOn
  | crcOff
  /-- `ld_frame b0, ..., bk` (k ≤ 7). -/
  | ldFrame (bytes : List Byte)
  /-- `crc_bytes b1, ..., bk`. -/
  | crcBytes (bytes : List Byte)
  /-- `set_raw s, h, t`. -/
  | setRaw (s h t : Word)
  | rdHum
  | rdTemp
  deriving DecidableEq, Repr

/-- The form can be written: its command spells a word (R46), and its byte list has a length R47 allows. -/
def HostForm.wellFormed : HostForm → Bool
  | .wr _ _ => true
  | .rd _ _ => true
  | .cmd command => command.wellFormed
  | .crcOn => true
  | .crcOff => true
  | .ldFrame bytes => decide (1 ≤ bytes.length ∧ bytes.length ≤ 8)
  | .crcBytes bytes => decide (1 ≤ bytes.length)
  | .setRaw _ _ _ => true
  | .rdHum => true
  | .rdTemp => true

/-- `wr REG, value` (R47): `MemWrite(BASE + off(REG), 4, value)`. -/
def wrOp (r : Reg) (value : Word) : HostOp := .write (.base r.offset) 4 value

/-- `rd REG` (R47): `MemRead(BASE + off(REG), 4)`. -/
def rdOp (r : Reg) : HostOp := .read (.base r.offset) 4

/-- `cmd command` (R47): `wr CMD, enc(command)`. -/
def cmdOp (command : Instr) : HostOp := wrOp .cmd (encode command)

/-- `b0 | b1<<8 | b2<<16 | b3<<24` (R47), "absent bytes 0". -/
def packWord (bytes : List Byte) : Word :=
  bytes.getD 3 0 ++ bytes.getD 2 0 ++ bytes.getD 1 0 ++ bytes.getD 0 0

/-- The accesses a form stands for (R47). -/
def HostForm.expand : HostForm → List HostOp
  | .wr r value => [wrOp r value]
  | .rd r _ => [rdOp r]
  | .cmd command => [cmdOp command]
  | .crcOn => [wrOp .ctrl 1]
  | .crcOff => [wrOp .ctrl 0]
  | .ldFrame bytes => [wrOp .buf0 (packWord bytes), wrOp .buf1 (packWord (bytes.drop 4))]
  | .crcBytes bytes => cmdOp .crcInit :: bytes.map fun b => cmdOp (.crcFeed b)
  | .setRaw s h t => [wrOp .statByte s, wrOp .humRaw h, wrOp .tempRaw t]
  | .rdHum => [rdOp .humOutLo, rdOp .humOutHi]
  | .rdTemp => [rdOp .tempOutLo, rdOp .tempOutHi]

/-- The accesses of a host program, in order. -/
def expandProgram (forms : List HostForm) : List HostOp := (forms.map HostForm.expand).flatten

/-- What a form expects of each read it makes (R47). -/
def HostForm.expects : HostForm → List (Option Word)
  | .wr _ _ => []
  | .rd _ expected => [expected]
  | .cmd _ => []
  | .crcOn => []
  | .crcOff => []
  | .ldFrame _ => []
  | .crcBytes _ => []
  | .setRaw _ _ _ => []
  | .rdHum => [none, none]
  | .rdTemp => [none, none]

/-- The words the reads returned are those the program's forms expect, where they expect one. -/
def meetsExpectations : List (Option Word) → List Word → Bool
  | [], [] => true
  | some v :: es, r :: rs => v == r && meetsExpectations es rs
  | none :: es, _ :: rs => meetsExpectations es rs
  | [], _ :: _ => false
  | _ :: _, [] => false

/-- The value of `rd_hum` or `rd_temp`: "the value is HI ++ LO" (R47). -/
def pairValue (lo hi : Word) : BitVec 64 := hi ++ lo

/-- A run (70_reset_and_hazards.md R148): the accesses applied in order from a start state. It ends in
the state after the last one, or in a fault at the first access that has no step. -/
def runOps : List HostOp → State → Host.Outcome State Fault Refusal
  | [], s => .next s
  | op :: rest, s =>
    match hostOp op s with
    | .next t => runOps rest t
    | .fault f => .fault f
    | .refused r => .refused r

end Sys2Proof.Machine
end

