-- ==== Sys2Proof/Safety.lean ====
section
/-! DEFINITION. What the statements are said in: admitted accesses and safe runs, the spec's own
formulas on numbers, the value of a binary64 word, and the invariant of the machine. -/

namespace Sys2Proof.Machine

/-! ### Admitted accesses and safe runs -/

/-- `admitted(addr, n)` as 20_memory.md R27 writes it. -/
def Admitted (addr : HostAddr) (n : Nat) : Prop :=
  n = 4 ∧ addr.value % 4 = 0 ∧ Config.base ≤ addr.value ∧ addr.value ≤ Config.base + 0x3C

/-- A host program that keeps the interface contract, started with the reset input at the given level:
every access is admitted (20_memory.md R28) and none is made while reset is asserted
(70_reset_and_hazards.md R140). -/
def KeepsContract : Bool → List HostOp → Prop
  | _, [] => True
  | r, .read addr n :: rest => r = false ∧ Admitted addr n ∧ KeepsContract r rest
  | r, .write addr n _ :: rest => r = false ∧ Admitted addr n ∧ KeepsContract r rest
  | r, .powerUp :: rest => KeepsContract r rest
  | _, .assertReset :: rest => KeepsContract true rest
  | _, .releaseReset :: rest => KeepsContract false rest

/-- A safe run: it ends in a state, not in a fault (70_reset_and_hazards.md R148). -/
def RunsSafely (p : List HostOp) (s : State) : Prop := ∃ t, runOps p s = .next t

/-- Commands executed one after the other (43_control.md R100), up to the first that has no next state. -/
def execAll : List Instr → State → Host.Outcome State Fault Refusal
  | [], s => .next s
  | i :: rest, s =>
    match exec i s with
    | .next t => execAll rest t
    | .fault f => .fault f
    | .refused r => .refused r

/-! ### The spec's formulas on numbers -/

/-- The byte sequence `buf[0 .. n-1]`, index by index (00_scope.md R8). -/
def State.bytesUpTo (s : State) (n : Nat) : List Byte := (List.range n).map fun k => s.buf (Fin.ofNat 8 k)

/-- One round of the loop of 40_checksum.md R51, on numbers below 256. -/
def crcRound (c : Nat) : Nat := if c / 128 % 2 = 1 then ((c * 2) ^^^ 0x31) % 256 else c * 2 % 256

/-- H of 41_frame_codec.md R71: `(buf[1] << 12) | (buf[2] << 4) | (buf[3] >> 4)`. -/
def State.frameHum (s : State) : Nat :=
  (s.buf 1).toNat * 4096 + (s.buf 2).toNat * 16 + (s.buf 3).toNat / 16

/-- T of 41_frame_codec.md R71: `((buf[3] & 0x0F) << 16) | (buf[4] << 8) | buf[5]`. -/
def State.frameTemp (s : State) : Nat :=
  (s.buf 3).toNat % 16 * 65536 + (s.buf 4).toNat * 256 + (s.buf 5).toNat

/-- Bytes 0 to 5 of the frame of (s, H, T) (41_frame_codec.md R74). -/
def frameBytes (status : Byte) (H T : Nat) : List Byte :=
  [status, BitVec.ofNat 8 (H / 4096), BitVec.ofNat 8 (H / 16), BitVec.ofNat 8 (H % 16 * 16 + T / 65536),
   BitVec.ofNat 8 (T / 256), BitVec.ofNat 8 T]

/-- A word with its low `k` bytes replaced by the given number below 256^k. -/
def withLowBytes (w : Word) (k low : Nat) : Word := BitVec.ofNat 32 (w.toNat / 256 ^ k * 256 ^ k + low)

/-- The rational an IEEE 754 binary64 word stands for: 1 sign bit, 11 exponent bits with bias 1023, 52
fraction bits with an implicit leading 1 (42_unit_converter.md R90); none for infinities and NaNs. -/
def binary64Value (x : BitVec 64) : Option ℚ :=
  let E := (x.extractLsb' 52 11).toNat
  let F := (x.extractLsb' 0 52).toNat
  let mag : ℚ := if E = 0 then F * (2 : ℚ) ^ (-1074 : ℤ) else (2 ^ 52 + F) * (2 : ℚ) ^ ((E : ℤ) - 1075)
  if E = 2047 then none else some (if x.getLsbD 63 then -mag else mag)

/-- The binary64 word is a normal number or +0.0: no subnormal, infinity, NaN or -0.0
(42_unit_converter.md R90). -/
def normalOrPlusZero (x : BitVec 64) : Prop :=
  x = 0 ∨ (1 ≤ (x.extractLsb' 52 11).toNat ∧ (x.extractLsb' 52 11).toNat ≤ 2046)

/-! ### The invariant -/

/-- What holds of the block at reset and after every step, whatever the host does. -/
structure Inv (s : State) : Prop where
  /-- ERR codes 5 to 15 are "never produced" (60_exceptions.md R110). -/
  errNamed : s.err.toNat ≤ 4
  /-- RAW_VALID: the raw registers hold the decode of a frame, two 20-bit values (10_state.md R19, R21). -/
  rawFits : s.rawValid = true → s.humRaw.toNat < 2 ^ 20 ∧ s.tempRaw.toNat < 2 ^ 20
  /-- OUT_VALID: both outputs hold the conversion of 20-bit values (10_state.md R19). -/
  outFits : s.outValid = true → ∃ H T, H < 2 ^ 20 ∧ T < 2 ^ 20 ∧
    s.humOut = humidityBits H ∧ s.tempOut = temperatureBits T
  /-- Both flags: the outputs are the conversion of the very values in the raw registers (10_state.md R19). -/
  outOfRaw : s.rawValid = true → s.outValid = true →
    s.humOut = humidityBits s.humRaw.toNat ∧ s.tempOut = temperatureBits s.tempRaw.toNat
  /-- HUM_OUT is always the encoding of some humidity (10_state.md R22). -/
  humEncoded : ∃ raw, raw < 2 ^ 32 ∧ s.humOut = humidityBits raw
  /-- TEMP_OUT is always the encoding of some temperature (10_state.md R22). -/
  tempEncoded : ∃ raw, raw < 2 ^ 32 ∧ s.tempOut = temperatureBits raw
  /-- While the reset input is asserted every register holds its reset value (70_reset_and_hazards.md R140). -/
  inReset : s.resetIn = true → s = s.resetRegisters

end Sys2Proof.Machine
end

