-- ==== Sys2Proof/Certificates/Slice0/Obligations.lean ====
section
/-! DEFINITION. The statements for the provers, in the order of OBLIGATIONS.json. -/

open Sys2Proof Sys2Proof.Machine

/-! ### Encoding -/

/-- Decoding the word of a well-formed command gives the command back, with every operand at every
value its field admits (30_encoding.md R43, R46). -/
def Obligations.DecodeOfEncodeIsTheCommand : Prop :=
  ∀ i : Instr, i.WellFormed → decode (encode i) = .command i

/-- A word that decodes to a command is that command's word, and the command is well-formed: each
command has exactly one word (30_encoding.md R43, R45). -/
def Obligations.EncodeOfDecodeIsTheWord : Prop :=
  ∀ (w : Word) (i : Instr), decode w = .command i → i.WellFormed ∧ encode i = w

/-- The rows of 30_encoding.md R43: mask, match, and the command with its operands. -/
def decodeRows : List (Word × Word × (Word → Instr)) :=
  [(0xFFFFFFFF#32, 0x00000000#32, fun _ => .nop),
   (0xFFFFFFFF#32, 0x00000001#32, fun _ => .crcInit),
   (0xFF00FFFF#32, 0x00000002#32, fun w => .crcFeed (w.extractLsb' 16 8)),
   (0xFFFFF0FF#32, 0x00000003#32, fun w => .crcBuf (w.extractLsb' 8 4).toNat),
   (0xFFFFF0FF#32, 0x00000004#32, fun w => .crcVerify (w.extractLsb' 8 4).toNat),
   (0xFFFFF0FF#32, 0x00000005#32, fun w => .unpack (w.extractLsb' 8 4).toNat),
   (0xFFFFF0FF#32, 0x00000006#32, fun w => .pack (w.extractLsb' 8 4).toNat),
   (0xFFFFFFFF#32, 0x00000007#32, fun _ => .packMeasureCmd),
   (0xFFFFFFFF#32, 0x00000008#32, fun _ => .packInitCmd),
   (0xFFFFFFFF#32, 0x00000009#32, fun _ => .convHum),
   (0xFFFFFFFF#32, 0x0000000A#32, fun _ => .convTemp),
   (0xFFFFF0FF#32, 0x0000000B#32, fun w => .unpackConvert (w.extractLsb' 8 4).toNat)]

/-- 30_encoding.md R43: a word decodes to the command of a row exactly when the row's mask and match
select it, whatever the order the rows are tried in; a word no row selects is ILLEGAL; and no word is
selected by two rows. -/
def Obligations.DecodeIsTheRowThatMatches : Prop :=
  (∀ row ∈ decodeRows, ∀ w : Word, w &&& row.1 = row.2.1 → decode w = .command (row.2.2 w)) ∧
  (∀ w : Word, (∀ row ∈ decodeRows, w &&& row.1 ≠ row.2.1) → ∃ why, decode w = .illegal why) ∧
  decodeRows.Pairwise fun a b => ∀ w : Word, ¬(w &&& a.1 = a.2.1 ∧ w &&& b.1 = b.2.1)

/-- 30_encoding.md R44: the illegal words are those with OP 0xC to 0xF and those with a nonzero reserved
field or a nonzero field the command does not take; executing one changes only ERR; and a LEN the
command does not accept is no ground for it. -/
def Obligations.IllegalWordsAreTheReservedOnes : Prop :=
  ∀ w : Word,
    let op := (w.extractLsb' 0 4).toNat
    let takesLen := op = 3 ∨ op = 4 ∨ op = 5 ∨ op = 6 ∨ op = 11
    let illegal := 12 ≤ op ∨ w.extractLsb' 4 4 ≠ 0 ∨ w.extractLsb' 12 4 ≠ 0 ∨ w.extractLsb' 24 8 ≠ 0 ∨
      (w.extractLsb' 8 4 ≠ 0 ∧ ¬takesLen) ∨ (w.extractLsb' 16 8 ≠ 0 ∧ op ≠ 2)
    (illegal ↔ ∃ why, decode w = .illegal why) ∧
    (illegal → ∀ s : State, execute w s = .next { s with err := 1 })

/-- Words written out from the bit patterns of 30_encoding.md R43 decode to the commands they stand for
(95_test_vectors.md section 2.4). -/
def Obligations.WrittenOutWordsDecode : Prop :=
  decode 0b00000000000000000000000000000000#32 = .command .nop ∧
  decode 0b00000000101010110000000000000010#32 = .command (.crcFeed 0xAB) ∧
  decode 0b00000000000000000000100000000011#32 = .command (.crcBuf 8) ∧
  decode 0b00000000000000000000011000000101#32 = .command (.unpack 6) ∧
  decode 0b00000000000000000000011100000110#32 = .command (.pack 7) ∧
  decode 0b00000000000000000000000000001010#32 = .command .convTemp ∧
  decode 0b00000000000000000000011100001011#32 = .command (.unpackConvert 7)

/-- OP, LEN and DATA of a command: its row of 30_encoding.md R42, and 0 for a field it does not take. -/
def commandFields : Instr → Nat × Nat × Nat
  | .nop => (0x0, 0, 0)
  | .crcInit => (0x1, 0, 0)
  | .crcFeed data => (0x2, 0, data.toNat)
  | .crcBuf len => (0x3, len, 0)
  | .crcVerify len => (0x4, len, 0)
  | .unpack len => (0x5, len, 0)
  | .pack len => (0x6, len, 0)
  | .packMeasureCmd => (0x7, 0, 0)
  | .packInitCmd => (0x8, 0, 0)
  | .convHum => (0x9, 0, 0)
  | .convTemp => (0xA, 0, 0)
  | .unpackConvert len => (0xB, len, 0)

/-- `enc(command)` of 30_encoding.md R46 as a number: `OP | (LEN << 8) | (DATA << 16)`. -/
def encNumber (i : Instr) : Nat :=
  (commandFields i).1 ||| ((commandFields i).2.1 <<< 8) ||| ((commandFields i).2.2 <<< 16)

/-- 30_encoding.md R46: a command with an operand assembles exactly when it takes one in its field's range,
one without exactly when it takes none; an in-range LEN the command does not accept assembles. The word of
every well-formed command is OP | LEN << 8 | DATA << 16, with the OP of R42; and the word a line of text
gives (what a line is: log entry 12) is that word of the command it decodes to, never an illegal one. -/
def Obligations.AssemblerSpellsExactlyTheCommands : Prop :=
  (∀ m i, (m, i) ∈ [(Mnemonic.NOP, Instr.nop), (.CRC_INIT, .crcInit), (.PACK_MEASURE_CMD, .packMeasureCmd),
      (.PACK_INIT_CMD, .packInitCmd), (.CONV_HUM, .convHum), (.CONV_TEMP, .convTemp)] →
    assemble m none = some i ∧ ∀ n, assemble m (some n) = none) ∧
  (∀ m f, (m, f) ∈ [(Mnemonic.CRC_BUF, Instr.crcBuf), (.CRC_VERIFY, .crcVerify), (.UNPACK, .unpack),
      (.PACK, .pack), (.UNPACK_CONVERT, .unpackConvert)] →
    assemble m none = none ∧ ∀ n, assemble m (some n) = if n ≤ 15 then some (f n) else none) ∧
  (assemble .CRC_FEED none = none ∧
    ∀ n, assemble .CRC_FEED (some n) = if n ≤ 255 then some (.crcFeed (BitVec.ofNat 8 n)) else none) ∧
  (∀ i : Instr, i.WellFormed → (encode i).toNat = encNumber i) ∧
  (∀ line w, assembleLine line = some w → ∃ i, decode w = .command i ∧ w.toNat = encNumber i)

/-! ### Steps and host accesses -/

/-- A step whose next host operation writes a word to CMD, at whichever spelling of the address
`BASE + 4`, runs the command the word decodes to, and the operation is gone (43_control.md R100). An
illegal word sets ERR to 1 and changes nothing else (43_control.md R102; the host's program is log entry 1). -/
def Obligations.StepRunsTheDecodedCommand : Prop :=
  ∀ (s : State) (addr : HostAddr) (w : Word) (rest : List HostOp),
    s.resetIn = false → s.program = .write addr 4 w :: rest → addr.value = Config.base + 0x04 →
    (∀ i, decode w = .command i → step s = exec i { s with program := rest }) ∧
    (∀ why, decode w = .illegal why → step s = .next { s with program := rest, err := 1 })

/-- Placing a command word where the next step takes it makes that step run exactly that word
(log entry 1). -/
def Obligations.PlacedWordIsTheNextCommand : Prop :=
  ∀ (s : State) (w : Word),
    step (s.withFetchWord 32 w.toNat) = execute w { s with resetIn := false } ∧
    ∀ i, decode w = .command i →
      decodeTableWord 32 w.toNat = some i ∧ step (s.withFetchWord 32 w.toNat) = exec i { s with resetIn := false }

/-- 20_memory.md R27: an access is admitted exactly when it is 4 bytes, 4-aligned and inside the window,
for every value of BASE, and it then touches the one slot at its offset. -/
def Obligations.AdmittedIsFourBytesAlignedInWindow : Prop :=
  ∀ (addr : HostAddr) (n : Nat),
    (Admitted addr n → admittedSlot addr n = some (slotAt (addr.value - Config.base))) ∧
    (¬Admitted addr n → admittedSlot addr n = none)

/-- An access that is not admitted is a host fault and has no step, in every state (20_memory.md R28). The
names of the faults, and that an access in reset bears the name of the reset fault whether it is admitted
or not, are the model's choice (log entry 3). -/
def Obligations.NotAdmittedAccessFaults : Prop :=
  ∀ (s : State) (addr : HostAddr) (n : Nat) (v : Word) (rest : List HostOp), ¬Admitted addr n →
    let f := if s.resetIn then Fault.accessInReset else Fault.notAdmitted
    step { s with program := .read addr n :: rest } = .fault f ∧
    step { s with program := .write addr n v :: rest } = .fault f

/-- The table of 20_memory.md R29: the word a read of each offset returns. -/
def readTable : List (Nat × (State → Word)) :=
  [(0x00, fun s => if s.crcEn then 1 else 0),
   (0x04, fun _ => 0),
   (0x08, fun s => BitVec.ofNat 32 (s.err.toNat + 16 * s.rawValid.toNat + 32 * s.outValid.toNat)),
   (0x0C, fun s => BitVec.ofNat 32 s.crc.toNat),
   (0x10, fun s => s.buf0),
   (0x14, fun s => s.buf1),
   (0x18, fun s => BitVec.ofNat 32 s.statByte.toNat),
   (0x1C, fun s => s.humRaw),
   (0x20, fun s => s.tempRaw),
   (0x24, fun s => s.humOutLo),
   (0x28, fun s => s.humOutHi),
   (0x2C, fun s => s.tempOutLo),
   (0x30, fun s => s.tempOutHi),
   (0x34, fun _ => 0), (0x38, fun _ => 0), (0x3C, fun _ => 0)]

/-- 20_memory.md R29: a read of each offset of the window hands the host the word of the table and
changes no register. -/
def Obligations.ReadReturnsTheSlotWord : Prop :=
  ∀ row ∈ readTable, ∀ (s : State) (addr : HostAddr) (rest : List HostOp),
    s.resetIn = false → s.program = .read addr 4 :: rest → addr.value = Config.base + row.1 →
    step s = .next { s with program := rest, responses := s.responses ++ [row.2 s] }

/-- The cases of 20_memory.md R30 other than CMD. -/
def writeTable : List (Nat × (State → Word → State)) :=
  [(0x00, fun s v => { s with crcEn := decide (v.toNat % 2 = 1) }),
   (0x08, fun s _ => s), (0x0C, fun s _ => s),
   (0x10, fun s v => { s with buf0 := v }),
   (0x14, fun s v => { s with buf1 := v }),
   (0x18, fun s v => { s with statByte := BitVec.ofNat 8 v.toNat, rawValid := false }),
   (0x1C, fun s v => { s with humRaw := v, rawValid := false }),
   (0x20, fun s v => { s with tempRaw := v, rawValid := false }),
   (0x24, fun s _ => s), (0x28, fun s _ => s), (0x2C, fun s _ => s), (0x30, fun s _ => s),
   (0x34, fun s _ => s), (0x38, fun s _ => s), (0x3C, fun s _ => s)]

/-- 20_memory.md R30: a write of each offset does what the case table says, and a write of 0x04 executes
the word. -/
def Obligations.WriteDoesTheSlotsCase : Prop :=
  (∀ row ∈ writeTable, ∀ (s : State) (addr : HostAddr) (v : Word) (rest : List HostOp),
    s.resetIn = false → s.program = .write addr 4 v :: rest → addr.value = Config.base + row.1 →
    step s = .next (row.2 { s with program := rest } v)) ∧
  (∀ (s : State) (addr : HostAddr) (v : Word) (rest : List HostOp),
    s.resetIn = false → s.program = .write addr 4 v :: rest → addr.value = Config.base + 0x04 →
    step s = execute v { s with program := rest })

/-- Reads repeat and writes to every slot but CMD are idempotent (20_memory.md R33): making such an
operation twice in a row leaves the registers as making it once does. -/
def Obligations.AccessesButCommandsAreIdempotent : Prop :=
  ∀ (addr : HostAddr) (n : Nat) (v : Word) (s t : State),
    (addr.value ≠ Config.base + 0x04 → hostOp (.write addr n v) s = .next t →
      hostOp (.write addr n v) t = .next t) ∧
    (hostOp (.read addr n) s = .next t → ∃ x, t = { s with responses := s.responses ++ [x] } ∧
      hostOp (.read addr n) t = .next { t with responses := t.responses ++ [x] })

/-- 70_reset_and_hazards.md R140: power-up and the assertion of the reset input give every register its
listed value, and the state after reset has those values too. That the host keeps what it holds is the
model's choice (log entries 1 and 4). -/
def Obligations.ResetGivesTheListedValues : Prop :=
  (∀ s t : State, (hostOp .powerUp s = .next t ∨ hostOp .assertReset s = .next t) →
    t.crcEn = false ∧ t.err = 0 ∧ t.rawValid = false ∧ t.outValid = false ∧ t.crc = 0xFF ∧
    t.buf0 = 0 ∧ t.buf1 = 0 ∧ t.statByte = 0 ∧ t.humRaw = 0 ∧ t.tempRaw = 0 ∧
    t.humOutLo = 0 ∧ t.humOutHi = 0 ∧ t.tempOutLo = 0 ∧ t.tempOutHi = 0 ∧
    t.program = s.program ∧ t.responses = s.responses) ∧
  hostOp .powerUp State.reset = .next State.reset

/-- An access made while the reset input is asserted faults, until the input is released; the first admitted
access after that, read or write, to any slot, is served (70_reset_and_hazards.md R140, R141). That every
access in reset bears one fault name, admitted or not, is the model's choice (log entry 3), and so are
assertion and release as events between accesses (log entry 4). -/
def Obligations.AccessDuringResetFaults : Prop :=
  ∀ (s t : State) (addr : HostAddr) (n : Nat) (v : Word), hostOp .assertReset s = .next t →
    hostOp (.read addr n) t = .fault .accessInReset ∧ hostOp (.write addr n v) t = .fault .accessInReset ∧
    (Admitted addr n →
      (∃ u, runOps [.releaseReset, .read addr n] t = .next u ∧ u.resetIn = false) ∧
      ∃ u, runOps [.releaseReset, .write addr n v] t = .next u ∧ u.resetIn = false)

/-- A run ends in a state exactly when its program keeps the interface contract (20_memory.md R28;
70_reset_and_hazards.md R140, R148). Reset events among the accesses are the model's choice (log entry 4). -/
def Obligations.RunIsSafeExactlyWhenContractIsKept : Prop :=
  ∀ (p : List HostOp) (s : State), RunsSafely p s ↔ KeepsContract s.resetIn p

/-- As many steps as a host program has operations make the run of that program, and leave what
follows it untouched (20_memory.md R34; 70_reset_and_hazards.md R148; the program in State is log entry 1). -/
def Obligations.StepsMakeTheRunInOrder : Prop :=
  ∀ (p rest : List HostOp) (s t : State), runOps p s = .next t →
    Host.Core.run Sys2Proof.core p.length { s with program := p ++ rest } = .next { t with program := rest }

/-- 10_state.md R18: byte i of the buffer is 8 bits of BUF0 or BUF1, and writing it changes only those. -/
def Obligations.BufferBytesAliasTheWords : Prop :=
  ∀ (s : State) (i : Fin 8) (b : Byte),
    (s.buf i).toNat = (if i.val < 4 then s.buf0 else s.buf1).toNat / 256 ^ (i.val % 4) % 256 ∧
    (∀ j : Fin 8, (s.setBuf i b).buf j = if j = i then b else s.buf j) ∧
    { s.setBuf i b with buf0 := s.buf0, buf1 := s.buf1 } = s

/-- `ld_frame b0, ..., bk` puts its bytes in the buffer in frame order and sets the rest to 0, and
changes nothing else (30_encoding.md R47; 20_memory.md R31; its length 1 to 8 is log entry 13). -/
def Obligations.LoadFramePutsTheBytesInOrder : Prop :=
  ∀ (bytes : List Byte) (s : State), s.resetIn = false → (HostForm.ldFrame bytes).wellFormed = true →
    ∃ t, runOps (HostForm.ldFrame bytes).expand s = .next t ∧ (∀ i : Fin 8, t.buf i = bytes.getD i.val 0) ∧
      { t with buf0 := s.buf0, buf1 := s.buf1 } = s

/-! ### The checksum -/

/-- 40_checksum.md R51: `crc8_step(c, b)` is eight rounds of the loop on c ^ b. -/
def Obligations.CrcStepIsTheShiftLoop : Prop :=
  ∀ c b : Byte, (crc8Step c b).toNat = crcRound^[8] (c.toNat ^^^ b.toNat)

/-- 40_checksum.md R50: the accumulator starts at 0xFF, takes the bytes in order, and is returned as it
stands; the check value of "123456789" is 0xF7. -/
def Obligations.CrcFoldsTheBytesInOrder : Prop :=
  crc8 [] = 0xFF ∧ (∀ (seq : List Byte) (b : Byte), crc8 (seq ++ [b]) = crc8Step (crc8 seq) b) ∧
  crc8 [0x31, 0x32, 0x33, 0x34, 0x35, 0x36, 0x37, 0x38, 0x39] = 0xF7

/-- The 256-entry table T of 95_test_vectors.md section 2.1, 16 entries a row. -/
def crcTable : List (List Byte) :=
  [[0x00, 0x31, 0x62, 0x53, 0xC4, 0xF5, 0xA6, 0x97, 0xB9, 0x88, 0xDB, 0xEA, 0x7D, 0x4C, 0x1F, 0x2E],
   [0x43, 0x72, 0x21, 0x10, 0x87, 0xB6, 0xE5, 0xD4, 0xFA, 0xCB, 0x98, 0xA9, 0x3E, 0x0F, 0x5C, 0x6D],
   [0x86, 0xB7, 0xE4, 0xD5, 0x42, 0x73, 0x20, 0x11, 0x3F, 0x0E, 0x5D, 0x6C, 0xFB, 0xCA, 0x99, 0xA8],
   [0xC5, 0xF4, 0xA7, 0x96, 0x01, 0x30, 0x63, 0x52, 0x7C, 0x4D, 0x1E, 0x2F, 0xB8, 0x89, 0xDA, 0xEB],
   [0x3D, 0x0C, 0x5F, 0x6E, 0xF9, 0xC8, 0x9B, 0xAA, 0x84, 0xB5, 0xE6, 0xD7, 0x40, 0x71, 0x22, 0x13],
   [0x7E, 0x4F, 0x1C, 0x2D, 0xBA, 0x8B, 0xD8, 0xE9, 0xC7, 0xF6, 0xA5, 0x94, 0x03, 0x32, 0x61, 0x50],
   [0xBB, 0x8A, 0xD9, 0xE8, 0x7F, 0x4E, 0x1D, 0x2C, 0x02, 0x33, 0x60, 0x51, 0xC6, 0xF7, 0xA4, 0x95],
   [0xF8, 0xC9, 0x9A, 0xAB, 0x3C, 0x0D, 0x5E, 0x6F, 0x41, 0x70, 0x23, 0x12, 0x85, 0xB4, 0xE7, 0xD6]] ++
  [[0x7A, 0x4B, 0x18, 0x29, 0xBE, 0x8F, 0xDC, 0xED, 0xC3, 0xF2, 0xA1, 0x90, 0x07, 0x36, 0x65, 0x54],
   [0x39, 0x08, 0x5B, 0x6A, 0xFD, 0xCC, 0x9F, 0xAE, 0x80, 0xB1, 0xE2, 0xD3, 0x44, 0x75, 0x26, 0x17],
   [0xFC, 0xCD, 0x9E, 0xAF, 0x38, 0x09, 0x5A, 0x6B, 0x45, 0x74, 0x27, 0x16, 0x81, 0xB0, 0xE3, 0xD2],
   [0xBF, 0x8E, 0xDD, 0xEC, 0x7B, 0x4A, 0x19, 0x28, 0x06, 0x37, 0x64, 0x55, 0xC2, 0xF3, 0xA0, 0x91],
   [0x47, 0x76, 0x25, 0x14, 0x83, 0xB2, 0xE1, 0xD0, 0xFE, 0xCF, 0x9C, 0xAD, 0x3A, 0x0B, 0x58, 0x69],
   [0x04, 0x35, 0x66, 0x57, 0xC0, 0xF1, 0xA2, 0x93, 0xBD, 0x8C, 0xDF, 0xEE, 0x79, 0x48, 0x1B, 0x2A],
   [0xC1, 0xF0, 0xA3, 0x92, 0x05, 0x34, 0x67, 0x56, 0x78, 0x49, 0x1A, 0x2B, 0xBC, 0x8D, 0xDE, 0xEF],
   [0x82, 0xB3, 0xE0, 0xD1, 0x46, 0x77, 0x24, 0x15, 0x3B, 0x0A, 0x59, 0x68, 0xFF, 0xCE, 0x9D, 0xAC]]

/-- Law 2 of 40_checksum.md R52: a step is a look-up of c ^ b in the spec's table, and the table is a
bijection on bytes. -/
def Obligations.CrcStepIsTheSpecsTable : Prop :=
  (∀ c b : Byte, crcTable.flatten[(c ^^^ b).toNat]? = some (crc8Step c b)) ∧
  Function.Bijective (crc8Step 0)

/-- Laws 1, 3 and 4 of 40_checksum.md R52: the empty sequence, streaming, and the residue. -/
def Obligations.CrcStreamsAndLeavesNoResidue : Prop :=
  crc8 [] = 0xFF ∧ (∀ s t : List Byte, crc8 (s ++ t) = t.foldl crc8Step (crc8 s)) ∧
  ∀ s : List Byte, crc8 (s ++ [crc8 s]) = 0

/-- Law 6 of 40_checksum.md R52: changing exactly one bit of a sequence changes its checksum. -/
def Obligations.SingleBitFlipChangesTheChecksum : Prop :=
  ∀ (before after : List Byte) (b : Byte) (k : Nat), k < 8 →
    crc8 (before ++ b :: after) ≠ crc8 (before ++ (b ^^^ (1#8 <<< k)) :: after)

/-- `crc_bytes b1, ..., bk` leaves CRC = crc8(b1 ... bk), for any number of bytes, ERR = OK, and changes
nothing else (40_checksum.md R54; 30_encoding.md R47). -/
def Obligations.StreamedBytesGiveTheirChecksum : Prop :=
  ∀ (bytes : List Byte) (s : State), s.resetIn = false →
    runOps (HostForm.crcBytes bytes).expand s = .next { s with crc := crc8 bytes, err := 0 }

/-! ### The commands, one by one: encoding, result, frame, errors -/

/-- 43_control.md R101: NOP clears ERR and changes nothing else; and it is the one command word that does so
from every state. -/
def Obligations.NopClearsOnlyErr : Prop :=
  decode 0x00000000 = .command .nop ∧ (∀ s : State, exec .nop s = .next { s with err := 0 }) ∧
  ∀ w : Word, (∀ s : State, execute w s = .next { s with err := 0 }) → decode w = .command .nop

/-- 40_checksum.md R53: CRC_INIT sets CRC to 0xFF, whatever it held. -/
def Obligations.CrcInitLoadsTheInitialValue : Prop :=
  decode 0x00000001 = .command .crcInit ∧ ∀ s : State, exec .crcInit s = .next { s with crc := 0xFF, err := 0 }

/-- 40_checksum.md R54: CRC_FEED folds DATA into the accumulator, for every DATA; CRC_INIT and then one
CRC_FEED for each byte of a sequence of any length leave its checksum, and feeding that checksum too
leaves 0. -/
def Obligations.CrcFeedFoldsOneByte : Prop :=
  (∀ data : Byte, decode (BitVec.ofNat 32 (2 + data.toNat * 65536)) = .command (.crcFeed data)) ∧
  (∀ (s : State) (data : Byte),
    exec (.crcFeed data) s =
      .next { s with crc := BitVec.ofNat 8 (crcRound^[8] (s.crc.toNat ^^^ data.toNat)), err := 0 }) ∧
  (∀ s : State, s.crc = 0 → exec (.crcFeed 0) s = .next { s with crc := 0, err := 0 }) ∧
  ∀ (seq : List Byte) (s : State),
    execAll (.crcInit :: seq.map .crcFeed) s = .next { s with crc := crc8 seq, err := 0 } ∧
    execAll (.crcInit :: (seq ++ [crc8 seq]).map .crcFeed) s = .next { s with crc := 0, err := 0 }

/-- 40_checksum.md R55: CRC_BUF with LEN 0..8 computes crc8(buf[0..LEN-1]), and with LEN 9 or more raises
InvalidArgument and changes only STATUS. -/
def Obligations.CrcBufChecksumsTheFirstBytes : Prop :=
  (∀ len ≤ 15, decode (BitVec.ofNat 32 (3 + len * 256)) = .command (.crcBuf len)) ∧
  (∀ (s : State) (len : Nat), len ≤ 8 →
    exec (.crcBuf len) s = .next { s with crc := crc8 (s.bytesUpTo len), err := 0 }) ∧
  (∀ (s : State) (len : Nat), 9 ≤ len → exec (.crcBuf len) s = .next { s with err := 2 })

/-- 40_checksum.md R56: CRC_VERIFY with LEN 1..8 leaves the checksum of the first LEN-1 bytes in CRC and
reports whether buf[LEN-1] is it, whatever CRC_EN is; another LEN raises InvalidArgument. -/
def Obligations.CrcVerifyComparesTheLastByte : Prop :=
  (∀ len ≤ 15, decode (BitVec.ofNat 32 (4 + len * 256)) = .command (.crcVerify len)) ∧
  (∀ (s : State) (k : Fin 8),
    exec (.crcVerify (k.val + 1)) s =
      .next { s with
        crc := crc8 (s.bytesUpTo k.val)
        err := if crc8 (s.bytesUpTo k.val) = s.buf k then 0 else 4 }) ∧
  (∀ (s : State) (len : Nat), len = 0 ∨ 9 ≤ len → exec (.crcVerify len) s = .next { s with err := 2 })

/-- 41_frame_codec.md R73 with the gate of 40_checksum.md R57: UNPACK of a frame the gate passes puts the
fields of R71 in the raw registers and sets RAW_VALID; a 7-byte frame's checksum goes to CRC in every
case; a frame the gate fails, and a LEN that is no frame length, clear both flags and raise. -/
def Obligations.UnpackDecodesTheFrameOrRaises : Prop :=
  (∀ len ≤ 15, decode (BitVec.ofNat 32 (5 + len * 256)) = .command (.unpack len)) ∧
  (∀ s : State, s.crcEn = false →
    exec (.unpack 6) s = .next { s with
      statByte := s.buf 0, humRaw := BitVec.ofNat 32 s.frameHum, tempRaw := BitVec.ofNat 32 s.frameTemp
      rawValid := true, outValid := false, err := 0 }) ∧
  (∀ s : State, s.crcEn = false ∨ s.buf 6 = crc8 (s.bytesUpTo 6) →
    exec (.unpack 7) s = .next { s with
      statByte := s.buf 0, humRaw := BitVec.ofNat 32 s.frameHum, tempRaw := BitVec.ofNat 32 s.frameTemp
      rawValid := true, outValid := false, crc := crc8 (s.bytesUpTo 6), err := 0 }) ∧
  (∀ s : State, s.crcEn = true →
    exec (.unpack 6) s = .next { s with rawValid := false, outValid := false, err := 4 }) ∧
  (∀ s : State, s.crcEn = true → s.buf 6 ≠ crc8 (s.bytesUpTo 6) →
    exec (.unpack 7) s = .next { s with
      rawValid := false, outValid := false, crc := crc8 (s.bytesUpTo 6), err := 4 }) ∧
  (∀ (s : State) (len : Nat), len ≠ 6 → len ≠ 7 →
    exec (.unpack len) s = .next { s with rawValid := false, outValid := false, err := 3 })

/-- 41_frame_codec.md R75 and R74: PACK places STAT_BYTE, HUM_RAW and TEMP_RAW in bytes 0 to 5, with
LEN 7 also their checksum in byte 6 and in CRC, keeps the other bytes, and raises InvalidFrame for
another LEN before InvalidArgument for a raw value of 2^20 or more. -/
def Obligations.PackBuildsTheFrameOrRaises : Prop :=
  (∀ len ≤ 15, decode (BitVec.ofNat 32 (6 + len * 256)) = .command (.pack len)) ∧
  (∀ s : State, s.humRaw.toNat < 2 ^ 20 → s.tempRaw.toNat < 2 ^ 20 →
    let bytes := frameBytes s.statByte s.humRaw.toNat s.tempRaw.toNat
    (∃ t, exec (.pack 6) s = .next t ∧
      (∀ i : Fin 8, t.buf i = if i.val < 6 then bytes.getD i.val 0 else s.buf i) ∧
      { t with buf0 := s.buf0, buf1 := s.buf1 } = { s with err := 0 }) ∧
    (∃ t, exec (.pack 7) s = .next t ∧
      (∀ i : Fin 8, t.buf i = if i.val < 6 then bytes.getD i.val 0 else if i.val = 6 then crc8 bytes else s.buf i) ∧
      { t with buf0 := s.buf0, buf1 := s.buf1 } = { s with crc := crc8 bytes, err := 0 })) ∧
  (∀ (s : State) (len : Nat), len = 6 ∨ len = 7 → 2 ^ 20 ≤ s.humRaw.toNat ∨ 2 ^ 20 ≤ s.tempRaw.toNat →
    exec (.pack len) s = .next { s with err := 2 }) ∧
  (∀ (s : State) (len : Nat), len ≠ 6 → len ≠ 7 → exec (.pack len) s = .next { s with err := 3 })

/-- 41_frame_codec.md R77: PACK_MEASURE_CMD puts AC 33 00 in bytes 0 to 2 and keeps bytes 3 to 7. -/
def Obligations.PackMeasureCmdWritesItsThreeBytes : Prop :=
  decode 0x00000007 = .command .packMeasureCmd ∧
  ∀ s : State, exec .packMeasureCmd s = .next { s with buf0 := withLowBytes s.buf0 3 0x0033AC, err := 0 }

/-- 41_frame_codec.md R78: PACK_INIT_CMD puts BE 08 00 in bytes 0 to 2 and keeps bytes 3 to 7. -/
def Obligations.PackInitCmdWritesItsThreeBytes : Prop :=
  decode 0x00000008 = .command .packInitCmd ∧
  ∀ s : State, exec .packInitCmd s = .next { s with buf0 := withLowBytes s.buf0 3 0x0008BE, err := 0 }

/-- 42_unit_converter.md R95 with R91: CONV_HUM leaves in HUM_OUT the binary64 word of exactly
HUM_RAW * 100 / 2^20, of all 32 bits of HUM_RAW, +0.0 for 0, clears OUT_VALID, and changes nothing else. -/
def Obligations.ConvHumIsExact : Prop :=
  decode 0x00000009 = .command .convHum ∧
  ∀ s : State, ∃ r : BitVec 64, binary64Value r = some ((s.humRaw.toNat : ℚ) * 100 / 2 ^ 20) ∧
    normalOrPlusZero r ∧
    exec .convHum s = .next { s with
      humOutLo := r.extractLsb' 0 32, humOutHi := r.extractLsb' 32 32, outValid := false, err := 0 }

/-- 42_unit_converter.md R96 with R92: CONV_TEMP leaves in TEMP_OUT the binary64 word of exactly
TEMP_RAW * 200 / 2^20 - 50, +0.0 for 0, clears OUT_VALID, and changes nothing else. -/
def Obligations.ConvTempIsExact : Prop :=
  decode 0x0000000A = .command .convTemp ∧
  ∀ s : State, ∃ r : BitVec 64, binary64Value r = some ((s.tempRaw.toNat : ℚ) * 200 / 2 ^ 20 - 50) ∧
    normalOrPlusZero r ∧
    exec .convTemp s = .next { s with
      tempOutLo := r.extractLsb' 0 32, tempOutHi := r.extractLsb' 32 32, outValid := false, err := 0 }

/-- 42_unit_converter.md R97: UNPACK_CONVERT of a frame the gate passes leaves the raw fields, both
converted values, exact, and both flags set; it fails as UNPACK does, with the raw and output registers
kept and both flags clear. -/
def Obligations.UnpackConvertDecodesAndConverts : Prop :=
  (∀ len ≤ 15, decode (BitVec.ofNat 32 (11 + len * 256)) = .command (.unpackConvert len)) ∧
  (∀ (s : State) (len : Nat),
    (len = 6 ∧ s.crcEn = false) ∨ (len = 7 ∧ (s.crcEn = false ∨ s.buf 6 = crc8 (s.bytesUpTo 6))) →
    ∃ rh rt : BitVec 64,
      binary64Value rh = some ((s.frameHum : ℚ) * 100 / 2 ^ 20) ∧ normalOrPlusZero rh ∧
      binary64Value rt = some ((s.frameTemp : ℚ) * 200 / 2 ^ 20 - 50) ∧ normalOrPlusZero rt ∧
      exec (.unpackConvert len) s = .next { s with
        statByte := s.buf 0, humRaw := BitVec.ofNat 32 s.frameHum, tempRaw := BitVec.ofNat 32 s.frameTemp
        humOutLo := rh.extractLsb' 0 32, humOutHi := rh.extractLsb' 32 32
        tempOutLo := rt.extractLsb' 0 32, tempOutHi := rt.extractLsb' 32 32
        crc := if len = 7 then crc8 (s.bytesUpTo 6) else s.crc
        rawValid := true, outValid := true, err := 0 }) ∧
  (∀ s : State, s.crcEn = true →
    exec (.unpackConvert 6) s = .next { s with rawValid := false, outValid := false, err := 4 }) ∧
  (∀ s : State, s.crcEn = true → s.buf 6 ≠ crc8 (s.bytesUpTo 6) →
    exec (.unpackConvert 7) s = .next { s with
      rawValid := false, outValid := false, crc := crc8 (s.bytesUpTo 6), err := 4 }) ∧
  (∀ (s : State) (len : Nat), len ≠ 6 → len ≠ 7 →
    exec (.unpackConvert len) s = .next { s with rawValid := false, outValid := false, err := 3 })

/-- UNPACK_CONVERT has the same effect as UNPACK followed by CONV_HUM and CONV_TEMP, except for OUT_VALID,
which it sets (42_unit_converter.md R97), whenever UNPACK succeeds. -/
def Obligations.UnpackConvertIsUnpackThenBothConversions : Prop :=
  ∀ (s a : State) (len : Nat), exec (.unpack len) s = .next a → a.err = 0 →
    ∃ b c, exec .convHum a = .next b ∧ exec .convTemp b = .next c ∧
      exec (.unpackConvert len) s = .next { c with outValid := true }

/-! ### The converter's values and the frame's round trips -/

/-- 42_unit_converter.md R90: `to_binary64(N)` stands for exactly N / 2^20, for every |N| < 2^53, and is a
normal number or +0.0. -/
def Obligations.ToBinary64IsExact : Prop :=
  ∀ N : Int, N.natAbs < 2 ^ 53 →
    binary64Value (toBinary64 N) = some ((N : ℚ) / 2 ^ 20) ∧ normalOrPlusZero (toBinary64 N)

/-- 42_unit_converter.md R94: for a frame's 20-bit value humidity lies in [0, 99.99990463256836] and
temperature in [-50, 149.99980926513672]; above 2^20 they are above 100 and 150, unclamped. At 2^20 itself,
where R94 says "above", they are 100 and 150 exactly, as R95 and R96 give them. -/
def Obligations.ConvertedValuesAreNotClamped : Prop :=
  ∀ raw : Nat, raw < 2 ^ 32 →
    ∃ h t : ℚ, binary64Value (humidityBits raw) = some h ∧ binary64Value (temperatureBits raw) = some t ∧
      (raw ≤ 0xFFFFF → 0 ≤ h ∧ h ≤ 0xFFFFF * 100 / 2 ^ 20 ∧ -50 ≤ t ∧ t ≤ 0xFFFFF * 200 / 2 ^ 20 - 50) ∧
      (2 ^ 20 < raw → 100 < h ∧ 150 < t) ∧ (raw = 2 ^ 20 → h = 100 ∧ t = 150)

/-- Laws 1 and 2 of 41_frame_codec.md R76: what PACK places in the buffer, UNPACK of the same length gets
back, even from cleared raw registers; but a 6-byte frame does not pass an enabled gate. -/
def Obligations.PackThenUnpackRestoresTheReading : Prop :=
  ∀ (s t : State) (len : Nat), exec (.pack len) s = .next t → t.err = 0 →
    ∃ u, exec (.unpack len) { t with statByte := 0, humRaw := 0, tempRaw := 0 } = .next u ∧
      (len = 7 ∨ s.crcEn = false →
        u.err = 0 ∧ u.rawValid = true ∧ u.statByte = s.statByte ∧ u.humRaw = s.humRaw ∧ u.tempRaw = s.tempRaw) ∧
      (len = 6 → s.crcEn = true → u.err = 4 ∧ u.rawValid = false)

/-- Law 3 of 41_frame_codec.md R76: PACK after a successful UNPACK leaves the buffer as it was, byte 6 too
where the frame's checksum was right. -/
def Obligations.UnpackThenPackKeepsTheBuffer : Prop :=
  ∀ (s t : State) (len : Nat), exec (.unpack len) s = .next t → t.err = 0 →
    ∃ u, exec (.pack len) t = .next u ∧ u.err = 0 ∧ (∀ i : Fin 8, i.val ≠ 6 → u.buf i = s.buf i) ∧
      (len = 6 ∨ s.buf 6 = crc8 (s.bytesUpTo 6) → u.buf0 = s.buf0 ∧ u.buf1 = s.buf1)

/-- Law 4 of 41_frame_codec.md R76: `decode_fields` is a bijection between buf[0..5] and (s, H, T), with
`encode_fields` its inverse. -/
def Obligations.FieldsAndFrameBytesAreInverse : Prop :=
  ∀ (s : State) (r : Reading), (s.encodeFields r).decodeFields = r ∧
    s.encodeFields s.decodeFields = s ∧
    ∀ s' : State, (∀ i : Fin 8, i.val < 6 → s'.buf i = s.buf i) ↔ s'.decodeFields = s.decodeFields

/-! ### Whole-machine rules -/

/-- Every CMD write completes, whatever the word and the state: the block takes no trap, and a command
leaves the host's side alone (43_control.md R100; 60_exceptions.md R117). -/
def Obligations.EveryWordCompletes : Prop :=
  ∀ (w : Word) (s : State), ∃ t, execute w s = .next t ∧ t.resetIn = s.resetIn ∧ t.program = s.program ∧
    t.responses = s.responses

/-- 60_exceptions.md R112: InvalidArgument has exactly its three causes. -/
def Obligations.InvalidArgumentHasThreeCauses : Prop :=
  ∀ (w : Word) (s t : State), execute w s = .next t →
    (t.err = 2 ↔
      (∃ len, decode w = .command (.crcBuf len) ∧ 9 ≤ len ∧ len ≤ 15) ∨
      (∃ len, decode w = .command (.crcVerify len) ∧ (len = 0 ∨ (9 ≤ len ∧ len ≤ 15))) ∨
      (∃ len, decode w = .command (.pack len) ∧ (len = 6 ∨ len = 7) ∧
        (s.humRaw.extractLsb' 20 12 ≠ 0 ∨ s.tempRaw.extractLsb' 20 12 ≠ 0)))

/-- 60_exceptions.md R113: InvalidFrame has exactly one cause. -/
def Obligations.InvalidFrameHasOneCause : Prop :=
  ∀ (w : Word) (s t : State), execute w s = .next t →
    (t.err = 3 ↔ ∃ len, len ≠ 6 ∧ len ≠ 7 ∧
      (decode w = .command (.unpack len) ∨ decode w = .command (.unpackConvert len) ∨
        decode w = .command (.pack len)))

/-- 60_exceptions.md R114: ChecksumMismatch has exactly two causes. -/
def Obligations.ChecksumMismatchHasTwoCauses : Prop :=
  ∀ (w : Word) (s t : State), execute w s = .next t →
    (t.err = 4 ↔
      (∃ k : Fin 8, decode w = .command (.crcVerify (k.val + 1)) ∧ crc8 (s.bytesUpTo k.val) ≠ s.buf k) ∨
      (s.crcEn = true ∧ ∃ len,
        (decode w = .command (.unpack len) ∨ decode w = .command (.unpackConvert len)) ∧
        (len = 6 ∨ (len = 7 ∧ s.buf 6 ≠ crc8 (s.bytesUpTo 6)))))

/-- 60_exceptions.md R111: IllegalCommand is raised exactly by the words that decode to ILLEGAL. -/
def Obligations.IllegalCommandIsRaisedByIllegalWords : Prop :=
  ∀ (w : Word) (s t : State), execute w s = .next t →
    (t.err = 1 ↔ ∃ why, decode w = .illegal why) ∧ (t.err = 1 → t = { s with err := 1 })

/-- 60_exceptions.md R118: a failing command changes only STATUS and CRC; the flags only in a failing
UNPACK or UNPACK_CONVERT, which clears both; CRC only in CRC_VERIFY and in the frame gate of a 7-byte
frame, to the checksum computed there. -/
def Obligations.FailingCommandChangesOnlyStatusAndCrc : Prop :=
  ∀ (w : Word) (s t : State), execute w s = .next t → t.err ≠ 0 →
    t = { s with err := t.err, rawValid := t.rawValid, outValid := t.outValid, crc := t.crc } ∧
    (((∃ len, decode w = .command (.unpack len) ∨ decode w = .command (.unpackConvert len)) →
        t.rawValid = false ∧ t.outValid = false) ∧
     ((∀ len, decode w ≠ .command (.unpack len) ∧ decode w ≠ .command (.unpackConvert len)) →
        t.rawValid = s.rawValid ∧ t.outValid = s.outValid)) ∧
    (t.crc = s.crc ∨
      ((decode w = .command (.unpack 7) ∨ decode w = .command (.unpackConvert 7)) ∧ t.crc = crc8 (s.bytesUpTo 6)) ∨
      ∃ k : Fin 8, decode w = .command (.crcVerify (k.val + 1)) ∧ t.crc = crc8 (s.bytesUpTo k.val))

/-- What RAW_VALID and OUT_VALID are after a command, given whether it succeeded (10_state.md R23). -/
def flagsAfterCommand (i : Instr) (ok : Bool) (s : State) : Bool × Bool :=
  match i with
  | .unpack _ => if ok then (true, false) else (false, false)
  | .unpackConvert _ => if ok then (true, true) else (false, false)
  | .convHum => (s.rawValid, false)
  | .convTemp => (s.rawValid, false)
  | .nop => (s.rawValid, s.outValid)
  | .crcInit => (s.rawValid, s.outValid)
  | .crcFeed _ => (s.rawValid, s.outValid)
  | .crcBuf _ => (s.rawValid, s.outValid)
  | .crcVerify _ => (s.rawValid, s.outValid)
  | .pack _ => (s.rawValid, s.outValid)
  | .packMeasureCmd => (s.rawValid, s.outValid)
  | .packInitCmd => (s.rawValid, s.outValid)

/-- 10_state.md R23: the two flags change only as the table of events lists, over every operation of the
host and every command. -/
def Obligations.FlagsChangeOnlyAsListed : Prop :=
  (∀ (s t : State), (hostOp .powerUp s = .next t ∨ hostOp .assertReset s = .next t) →
    (t.rawValid, t.outValid) = (false, false)) ∧
  (∀ (s t : State), hostOp .releaseReset s = .next t → (t.rawValid, t.outValid) = (s.rawValid, s.outValid)) ∧
  (∀ (addr : HostAddr) (n : Nat) (s t : State), hostOp (.read addr n) s = .next t →
    (t.rawValid, t.outValid) = (s.rawValid, s.outValid)) ∧
  (∀ (addr : HostAddr) (n : Nat) (v : Word) (s t : State), hostOp (.write addr n v) s = .next t →
    addr.value ≠ Config.base + 0x04 →
    (t.rawValid, t.outValid) =
      if addr.value ∈ [Config.base + 0x18, Config.base + 0x1C, Config.base + 0x20] then (false, s.outValid)
      else (s.rawValid, s.outValid)) ∧
  (∀ (w : Word) (s t : State), execute w s = .next t →
    (∀ i, decode w = .command i → (t.rawValid, t.outValid) = flagsAfterCommand i (t.err == 0) s) ∧
    (∀ why, decode w = .illegal why → (t.rawValid, t.outValid) = (s.rawValid, s.outValid)))

/-- The "written by" column of 10_state.md R14: a register changes only by the commands listed for it.
OP numbers as in 30_encoding.md R42; no command changes CTRL or the host's side. -/
def Obligations.RegistersAreWrittenOnlyByTheListedCommands : Prop :=
  ∀ (i : Instr) (s t : State), exec i s = .next t →
    let op := (fieldOp (encode i)).toNat
    t.crcEn = s.crcEn ∧ t.resetIn = s.resetIn ∧ t.program = s.program ∧ t.responses = s.responses ∧
    (t.crc ≠ s.crc → op ∈ [0x1, 0x2, 0x3, 0x4, 0x5, 0x6, 0xB]) ∧
    (t.buf0 ≠ s.buf0 → op ∈ [0x6, 0x7, 0x8]) ∧
    (t.buf1 ≠ s.buf1 → op = 0x6) ∧
    (t.statByte ≠ s.statByte → op ∈ [0x5, 0xB]) ∧
    (t.humRaw ≠ s.humRaw → op ∈ [0x5, 0xB]) ∧
    (t.tempRaw ≠ s.tempRaw → op ∈ [0x5, 0xB]) ∧
    (t.humOut ≠ s.humOut → op ∈ [0x9, 0xB]) ∧
    (t.tempOut ≠ s.tempOut → op ∈ [0xA, 0xB])

/-- Only PACK reads STAT_BYTE (41_frame_codec.md R72): any other command, run on two states that differ in
STAT_BYTE alone, leaves states that differ in STAT_BYTE at most. -/
def Obligations.OnlyPackReadsStatByte : Prop :=
  ∀ (i : Instr) (s t : State) (b : Byte), (∀ len, i ≠ .pack len) → exec i s = .next t →
    ∃ u, exec i { s with statByte := b } = .next u ∧ { u with statByte := t.statByte } = t

/-- Only the frame gate of UNPACK and UNPACK_CONVERT reads CTRL.CRC_EN (10_state.md R16; 40_checksum.md R56). -/
def Obligations.OnlyTheFrameGateReadsCrcEn : Prop :=
  ∀ (i : Instr) (s t : State) (en : Bool), (∀ len, i ≠ .unpack len) → (∀ len, i ≠ .unpackConvert len) →
    exec i s = .next t → exec i { s with crcEn := en } = .next { t with crcEn := en }

/-- "Only CRC_BUF and CRC_VERIFY read it, and only with LEN = 8. No command writes it" (10_state.md R18):
buf[7] passes through every other command untouched and unseen. -/
def Obligations.LastBufferByteIsReadOnlyAtLengthEight : Prop :=
  ∀ (i : Instr) (s t : State), exec i s = .next t → t.buf 7 = s.buf 7 ∧
    (i ≠ .crcBuf 8 → i ≠ .crcVerify 8 → ∀ b : Byte, exec i (s.setBuf 7 b) = .next (t.setBuf 7 b))

/-- The invariant holds right after reset. -/
def Obligations.ResetMeetsTheInvariant : Prop := Inv State.reset

/-- Every step keeps the invariant, from every state that meets it (resets as events: log entry 4): named
error codes, flags that tell the truth about the raw and output registers, outputs that are always
conversions, registers held at reset while the input is asserted (10_state.md R19, R22, R23;
60_exceptions.md R110; 70_reset_and_hazards.md R140). -/
def Obligations.EveryStepKeepsTheInvariant : Prop :=
  ∀ s t : State, Inv s → step s = .next t → Inv t
end

