-- ==== Sys2Proof/Laws/Binary64.lean ====
section
/-! SUPPORT. The three fields of a binary64 result (42_unit_converter.md R90). -/

namespace Sys2Proof.Machine

@[simp] theorem toBinary64_zero : toBinary64 0 = 0 := rfl

/-- The leading 1 of m in place 52: the fraction field with its implicit bit. -/
theorem shifted_bounds {m : Nat} (h0 : m ≠ 0) (h : m < 2 ^ 53) :
    m.log2 ≤ 52 ∧ 2 ^ 52 ≤ m * 2 ^ (52 - m.log2) ∧ m * 2 ^ (52 - m.log2) < 2 ^ 53 := by
  have hk : m.log2 < 53 := (Nat.log2_lt h0).mpr h
  have h1 : 2 ^ m.log2 ≤ m := Nat.log2_self_le h0
  have h2 : m < 2 ^ (m.log2 + 1) := Nat.lt_log2_self
  refine ⟨by omega, ?_, ?_⟩
  · calc 2 ^ 52 = 2 ^ m.log2 * 2 ^ (52 - m.log2) := by rw [← Nat.pow_add]; congr 1; omega
      _ ≤ m * 2 ^ (52 - m.log2) := Nat.mul_le_mul_right _ h1
  · calc m * 2 ^ (52 - m.log2) < 2 ^ (m.log2 + 1) * 2 ^ (52 - m.log2) :=
          Nat.mul_lt_mul_of_pos_right h2 (by positivity)
      _ = 2 ^ 53 := by rw [← Nat.pow_add]; congr 1; omega

/-- The word of a nonzero result as a number: sign, exponent field, fraction field, side by side. -/
theorem toBinary64_toNat {N : Int} (h0 : N ≠ 0) (h : N.natAbs < 2 ^ 53) :
    (toBinary64 N).toNat = (if N < 0 then 1 else 0) * 2 ^ 63 + (N.natAbs.log2 + 1003) * 2 ^ 52 +
      (N.natAbs * 2 ^ (52 - N.natAbs.log2) - 2 ^ 52) := by
  obtain ⟨hk, hlo, hhi⟩ := shifted_bounds (Int.natAbs_ne_zero.mpr h0) h
  have hF : N.natAbs * 2 ^ (52 - N.natAbs.log2) - 2 ^ 52 < 2 ^ 52 := by omega
  simp only [toBinary64, h0, if_false, BitVec.toNat_ofNat, Nat.shiftLeft_eq]
  generalize hFe : N.natAbs * 2 ^ (52 - N.natAbs.log2) - 2 ^ 52 = F at hF ⊢
  have hE : (N.natAbs.log2 + 1023 - 20) * 2 ^ 52 < 2 ^ 63 := by omega
  have e1 : ((if N < 0 then 1 else 0) * 2 ^ 63 ||| (N.natAbs.log2 + 1023 - 20) * 2 ^ 52) =
      (if N < 0 then 1 else 0) * 2 ^ 63 + (N.natAbs.log2 + 1023 - 20) * 2 ^ 52 := by
    rw [← Nat.shiftLeft_eq _ 63, Nat.shiftLeft_add_eq_or_of_lt hE]
  have e2 : (if N < 0 then 1 else 0) * 2 ^ 63 + (N.natAbs.log2 + 1023 - 20) * 2 ^ 52 =
      ((if N < 0 then 1 else 0) * 2 ^ 11 + (N.natAbs.log2 + 1023 - 20)) <<< 52 := by
    rw [Nat.shiftLeft_eq]; ring
  rw [e1, e2, ← Nat.shiftLeft_add_eq_or_of_lt hF, ← e2]
  split <;> omega

theorem toBinary64_sign {N : Int} (h0 : N ≠ 0) (h : N.natAbs < 2 ^ 53) :
    (toBinary64 N).getLsbD 63 = decide (N < 0) := by
  obtain ⟨hk, hlo, hhi⟩ := shifted_bounds (Int.natAbs_ne_zero.mpr h0) h
  rw [BitVec.getLsbD, toBinary64_toNat h0 h, Nat.testBit_eq_decide_div_mod_eq]
  split <;> rename_i hs <;> simp only [hs, decide_true, decide_false, decide_eq_true_eq, decide_eq_false_iff_not] <;> omega

/-- E = k - 20 + 1023, k the place of the leading 1 of |N|. -/
theorem toBinary64_exponent {N : Int} (h0 : N ≠ 0) (h : N.natAbs < 2 ^ 53) :
    ((toBinary64 N).extractLsb' 52 11).toNat = N.natAbs.log2 + 1003 := by
  obtain ⟨hk, hlo, hhi⟩ := shifted_bounds (Int.natAbs_ne_zero.mpr h0) h
  rw [BitVec.extractLsb'_toNat, toBinary64_toNat h0 h, Nat.shiftRight_eq_div_pow]
  split <;> omega

/-- F, with the implicit leading 1 put back. -/
theorem toBinary64_fraction {N : Int} (h0 : N ≠ 0) (h : N.natAbs < 2 ^ 53) :
    ((toBinary64 N).extractLsb' 0 52).toNat + 2 ^ 52 = N.natAbs * 2 ^ (52 - N.natAbs.log2) := by
  obtain ⟨hk, hlo, hhi⟩ := shifted_bounds (Int.natAbs_ne_zero.mpr h0) h
  rw [BitVec.extractLsb'_toNat, toBinary64_toNat h0 h, Nat.shiftRight_eq_div_pow]
  split <;> omega

/-- N_h of 42_unit_converter.md R93 is exactly representable. -/
theorem humidityNum_bound {raw : Nat} (h : raw < 2 ^ 32) : (humidityNum raw).natAbs < 2 ^ 39 := by
  simp only [humidityNum]; omega

/-- N_t of 42_unit_converter.md R93 is exactly representable. -/
theorem temperatureNum_bound {raw : Nat} (h : raw < 2 ^ 32) : (temperatureNum raw).natAbs < 2 ^ 40 := by
  simp only [temperatureNum]; omega

/-! ### The two words of a result -/

theorem append_halves (r : BitVec 64) : r.extractLsb' 32 32 ++ r.extractLsb' 0 32 = r := by
  apply BitVec.eq_of_getLsbD_eq
  intro i hi
  rw [BitVec.getLsbD_append, BitVec.getLsbD_extractLsb', BitVec.getLsbD_extractLsb']
  by_cases h : i < 32
  · simp [h]
  · have h1 : i - 32 < 32 := by omega
    have h2 : 32 + (i - 32) = i := by omega
    rw [if_neg h, h2]
    simp [h1]

@[simp] theorem State.humOut_setHumOut (s : State) (r : BitVec 64) : (s.setHumOut r).humOut = r := append_halves r
@[simp] theorem State.tempOut_setTempOut (s : State) (r : BitVec 64) : (s.setTempOut r).tempOut = r := append_halves r

end Sys2Proof.Machine
end

