-- ==== Sys2Proof/Laws/State.lean ====
section
/-! SUPPORT. One lemma for each field after each named update of State. Bytes of the buffer
after an update are in Laws/Buffer.lean. -/

namespace Sys2Proof.Machine

/-! ### `State.setBuf` -/

@[simp] theorem State.setBuf_crcEn (s : State) (i : Fin 8) (b : Byte) : (s.setBuf i b).crcEn = s.crcEn := rfl
@[simp] theorem State.setBuf_err (s : State) (i : Fin 8) (b : Byte) : (s.setBuf i b).err = s.err := rfl
@[simp] theorem State.setBuf_rawValid (s : State) (i : Fin 8) (b : Byte) : (s.setBuf i b).rawValid = s.rawValid := rfl
@[simp] theorem State.setBuf_outValid (s : State) (i : Fin 8) (b : Byte) : (s.setBuf i b).outValid = s.outValid := rfl
@[simp] theorem State.setBuf_crc (s : State) (i : Fin 8) (b : Byte) : (s.setBuf i b).crc = s.crc := rfl
@[simp] theorem State.setBuf_statByte (s : State) (i : Fin 8) (b : Byte) : (s.setBuf i b).statByte = s.statByte := rfl
@[simp] theorem State.setBuf_humRaw (s : State) (i : Fin 8) (b : Byte) : (s.setBuf i b).humRaw = s.humRaw := rfl
@[simp] theorem State.setBuf_tempRaw (s : State) (i : Fin 8) (b : Byte) : (s.setBuf i b).tempRaw = s.tempRaw := rfl
@[simp] theorem State.setBuf_humOutLo (s : State) (i : Fin 8) (b : Byte) : (s.setBuf i b).humOutLo = s.humOutLo := rfl
@[simp] theorem State.setBuf_humOutHi (s : State) (i : Fin 8) (b : Byte) : (s.setBuf i b).humOutHi = s.humOutHi := rfl
@[simp] theorem State.setBuf_tempOutLo (s : State) (i : Fin 8) (b : Byte) : (s.setBuf i b).tempOutLo = s.tempOutLo := rfl
@[simp] theorem State.setBuf_tempOutHi (s : State) (i : Fin 8) (b : Byte) : (s.setBuf i b).tempOutHi = s.tempOutHi := rfl
@[simp] theorem State.setBuf_resetIn (s : State) (i : Fin 8) (b : Byte) : (s.setBuf i b).resetIn = s.resetIn := rfl
@[simp] theorem State.setBuf_program (s : State) (i : Fin 8) (b : Byte) : (s.setBuf i b).program = s.program := rfl
@[simp] theorem State.setBuf_responses (s : State) (i : Fin 8) (b : Byte) : (s.setBuf i b).responses = s.responses := rfl

/-! ### `State.encodeFields` -/

@[simp] theorem State.encodeFields_crcEn (s : State) (r : Reading) : (s.encodeFields r).crcEn = s.crcEn := by
  simp [State.encodeFields]
@[simp] theorem State.encodeFields_err (s : State) (r : Reading) : (s.encodeFields r).err = s.err := by
  simp [State.encodeFields]
@[simp] theorem State.encodeFields_rawValid (s : State) (r : Reading) : (s.encodeFields r).rawValid = s.rawValid := by
  simp [State.encodeFields]
@[simp] theorem State.encodeFields_outValid (s : State) (r : Reading) : (s.encodeFields r).outValid = s.outValid := by
  simp [State.encodeFields]
@[simp] theorem State.encodeFields_crc (s : State) (r : Reading) : (s.encodeFields r).crc = s.crc := by
  simp [State.encodeFields]
@[simp] theorem State.encodeFields_statByte (s : State) (r : Reading) : (s.encodeFields r).statByte = s.statByte := by
  simp [State.encodeFields]
@[simp] theorem State.encodeFields_humRaw (s : State) (r : Reading) : (s.encodeFields r).humRaw = s.humRaw := by
  simp [State.encodeFields]
@[simp] theorem State.encodeFields_tempRaw (s : State) (r : Reading) : (s.encodeFields r).tempRaw = s.tempRaw := by
  simp [State.encodeFields]
@[simp] theorem State.encodeFields_humOutLo (s : State) (r : Reading) : (s.encodeFields r).humOutLo = s.humOutLo := by
  simp [State.encodeFields]
@[simp] theorem State.encodeFields_humOutHi (s : State) (r : Reading) : (s.encodeFields r).humOutHi = s.humOutHi := by
  simp [State.encodeFields]
@[simp] theorem State.encodeFields_tempOutLo (s : State) (r : Reading) : (s.encodeFields r).tempOutLo = s.tempOutLo := by
  simp [State.encodeFields]
@[simp] theorem State.encodeFields_tempOutHi (s : State) (r : Reading) : (s.encodeFields r).tempOutHi = s.tempOutHi := by
  simp [State.encodeFields]
@[simp] theorem State.encodeFields_resetIn (s : State) (r : Reading) : (s.encodeFields r).resetIn = s.resetIn := by
  simp [State.encodeFields]
@[simp] theorem State.encodeFields_program (s : State) (r : Reading) : (s.encodeFields r).program = s.program := by
  simp [State.encodeFields]
@[simp] theorem State.encodeFields_responses (s : State) (r : Reading) : (s.encodeFields r).responses = s.responses := by
  simp [State.encodeFields]

/-! ### `State.setReading` -/

@[simp] theorem State.setReading_crcEn (s : State) (r : Reading) : (s.setReading r).crcEn = s.crcEn := rfl
@[simp] theorem State.setReading_err (s : State) (r : Reading) : (s.setReading r).err = s.err := rfl
@[simp] theorem State.setReading_rawValid (s : State) (r : Reading) : (s.setReading r).rawValid = s.rawValid := rfl
@[simp] theorem State.setReading_outValid (s : State) (r : Reading) : (s.setReading r).outValid = s.outValid := rfl
@[simp] theorem State.setReading_crc (s : State) (r : Reading) : (s.setReading r).crc = s.crc := rfl
@[simp] theorem State.setReading_buf0 (s : State) (r : Reading) : (s.setReading r).buf0 = s.buf0 := rfl
@[simp] theorem State.setReading_buf1 (s : State) (r : Reading) : (s.setReading r).buf1 = s.buf1 := rfl
@[simp] theorem State.setReading_statByte (s : State) (r : Reading) : (s.setReading r).statByte = r.status := rfl
@[simp] theorem State.setReading_humRaw (s : State) (r : Reading) : (s.setReading r).humRaw = r.hum.setWidth 32 := rfl
@[simp] theorem State.setReading_tempRaw (s : State) (r : Reading) : (s.setReading r).tempRaw = r.temp.setWidth 32 := rfl
@[simp] theorem State.setReading_humOutLo (s : State) (r : Reading) : (s.setReading r).humOutLo = s.humOutLo := rfl
@[simp] theorem State.setReading_humOutHi (s : State) (r : Reading) : (s.setReading r).humOutHi = s.humOutHi := rfl
@[simp] theorem State.setReading_tempOutLo (s : State) (r : Reading) : (s.setReading r).tempOutLo = s.tempOutLo := rfl
@[simp] theorem State.setReading_tempOutHi (s : State) (r : Reading) : (s.setReading r).tempOutHi = s.tempOutHi := rfl
@[simp] theorem State.setReading_resetIn (s : State) (r : Reading) : (s.setReading r).resetIn = s.resetIn := rfl
@[simp] theorem State.setReading_program (s : State) (r : Reading) : (s.setReading r).program = s.program := rfl
@[simp] theorem State.setReading_responses (s : State) (r : Reading) : (s.setReading r).responses = s.responses := rfl

/-! ### `State.setCommandFrame` -/

@[simp] theorem State.setCommandFrame_crcEn (s : State) (b0 b1 b2 : Byte) : (s.setCommandFrame b0 b1 b2).crcEn = s.crcEn := by
  simp [State.setCommandFrame]
@[simp] theorem State.setCommandFrame_err (s : State) (b0 b1 b2 : Byte) : (s.setCommandFrame b0 b1 b2).err = s.err := by
  simp [State.setCommandFrame]
@[simp] theorem State.setCommandFrame_rawValid (s : State) (b0 b1 b2 : Byte) : (s.setCommandFrame b0 b1 b2).rawValid = s.rawValid := by
  simp [State.setCommandFrame]
@[simp] theorem State.setCommandFrame_outValid (s : State) (b0 b1 b2 : Byte) : (s.setCommandFrame b0 b1 b2).outValid = s.outValid := by
  simp [State.setCommandFrame]
@[simp] theorem State.setCommandFrame_crc (s : State) (b0 b1 b2 : Byte) : (s.setCommandFrame b0 b1 b2).crc = s.crc := by
  simp [State.setCommandFrame]
@[simp] theorem State.setCommandFrame_statByte (s : State) (b0 b1 b2 : Byte) : (s.setCommandFrame b0 b1 b2).statByte = s.statByte := by
  simp [State.setCommandFrame]
@[simp] theorem State.setCommandFrame_humRaw (s : State) (b0 b1 b2 : Byte) : (s.setCommandFrame b0 b1 b2).humRaw = s.humRaw := by
  simp [State.setCommandFrame]
@[simp] theorem State.setCommandFrame_tempRaw (s : State) (b0 b1 b2 : Byte) : (s.setCommandFrame b0 b1 b2).tempRaw = s.tempRaw := by
  simp [State.setCommandFrame]
@[simp] theorem State.setCommandFrame_humOutLo (s : State) (b0 b1 b2 : Byte) : (s.setCommandFrame b0 b1 b2).humOutLo = s.humOutLo := by
  simp [State.setCommandFrame]
@[simp] theorem State.setCommandFrame_humOutHi (s : State) (b0 b1 b2 : Byte) : (s.setCommandFrame b0 b1 b2).humOutHi = s.humOutHi := by
  simp [State.setCommandFrame]
@[simp] theorem State.setCommandFrame_tempOutLo (s : State) (b0 b1 b2 : Byte) : (s.setCommandFrame b0 b1 b2).tempOutLo = s.tempOutLo := by
  simp [State.setCommandFrame]
@[simp] theorem State.setCommandFrame_tempOutHi (s : State) (b0 b1 b2 : Byte) : (s.setCommandFrame b0 b1 b2).tempOutHi = s.tempOutHi := by
  simp [State.setCommandFrame]
@[simp] theorem State.setCommandFrame_resetIn (s : State) (b0 b1 b2 : Byte) : (s.setCommandFrame b0 b1 b2).resetIn = s.resetIn := by
  simp [State.setCommandFrame]
@[simp] theorem State.setCommandFrame_program (s : State) (b0 b1 b2 : Byte) : (s.setCommandFrame b0 b1 b2).program = s.program := by
  simp [State.setCommandFrame]
@[simp] theorem State.setCommandFrame_responses (s : State) (b0 b1 b2 : Byte) : (s.setCommandFrame b0 b1 b2).responses = s.responses := by
  simp [State.setCommandFrame]

/-! ### `State.setHumOut` -/

@[simp] theorem State.setHumOut_crcEn (s : State) (r : BitVec 64) : (s.setHumOut r).crcEn = s.crcEn := rfl
@[simp] theorem State.setHumOut_err (s : State) (r : BitVec 64) : (s.setHumOut r).err = s.err := rfl
@[simp] theorem State.setHumOut_rawValid (s : State) (r : BitVec 64) : (s.setHumOut r).rawValid = s.rawValid := rfl
@[simp] theorem State.setHumOut_outValid (s : State) (r : BitVec 64) : (s.setHumOut r).outValid = s.outValid := rfl
@[simp] theorem State.setHumOut_crc (s : State) (r : BitVec 64) : (s.setHumOut r).crc = s.crc := rfl
@[simp] theorem State.setHumOut_buf0 (s : State) (r : BitVec 64) : (s.setHumOut r).buf0 = s.buf0 := rfl
@[simp] theorem State.setHumOut_buf1 (s : State) (r : BitVec 64) : (s.setHumOut r).buf1 = s.buf1 := rfl
@[simp] theorem State.setHumOut_statByte (s : State) (r : BitVec 64) : (s.setHumOut r).statByte = s.statByte := rfl
@[simp] theorem State.setHumOut_humRaw (s : State) (r : BitVec 64) : (s.setHumOut r).humRaw = s.humRaw := rfl
@[simp] theorem State.setHumOut_tempRaw (s : State) (r : BitVec 64) : (s.setHumOut r).tempRaw = s.tempRaw := rfl
@[simp] theorem State.setHumOut_humOutLo (s : State) (r : BitVec 64) : (s.setHumOut r).humOutLo = r.extractLsb' 0 32 := rfl
@[simp] theorem State.setHumOut_humOutHi (s : State) (r : BitVec 64) : (s.setHumOut r).humOutHi = r.extractLsb' 32 32 := rfl
@[simp] theorem State.setHumOut_tempOutLo (s : State) (r : BitVec 64) : (s.setHumOut r).tempOutLo = s.tempOutLo := rfl
@[simp] theorem State.setHumOut_tempOutHi (s : State) (r : BitVec 64) : (s.setHumOut r).tempOutHi = s.tempOutHi := rfl
@[simp] theorem State.setHumOut_resetIn (s : State) (r : BitVec 64) : (s.setHumOut r).resetIn = s.resetIn := rfl
@[simp] theorem State.setHumOut_program (s : State) (r : BitVec 64) : (s.setHumOut r).program = s.program := rfl
@[simp] theorem State.setHumOut_responses (s : State) (r : BitVec 64) : (s.setHumOut r).responses = s.responses := rfl

/-! ### `State.setTempOut` -/

@[simp] theorem State.setTempOut_crcEn (s : State) (r : BitVec 64) : (s.setTempOut r).crcEn = s.crcEn := rfl
@[simp] theorem State.setTempOut_err (s : State) (r : BitVec 64) : (s.setTempOut r).err = s.err := rfl
@[simp] theorem State.setTempOut_rawValid (s : State) (r : BitVec 64) : (s.setTempOut r).rawValid = s.rawValid := rfl
@[simp] theorem State.setTempOut_outValid (s : State) (r : BitVec 64) : (s.setTempOut r).outValid = s.outValid := rfl
@[simp] theorem State.setTempOut_crc (s : State) (r : BitVec 64) : (s.setTempOut r).crc = s.crc := rfl
@[simp] theorem State.setTempOut_buf0 (s : State) (r : BitVec 64) : (s.setTempOut r).buf0 = s.buf0 := rfl
@[simp] theorem State.setTempOut_buf1 (s : State) (r : BitVec 64) : (s.setTempOut r).buf1 = s.buf1 := rfl
@[simp] theorem State.setTempOut_statByte (s : State) (r : BitVec 64) : (s.setTempOut r).statByte = s.statByte := rfl
@[simp] theorem State.setTempOut_humRaw (s : State) (r : BitVec 64) : (s.setTempOut r).humRaw = s.humRaw := rfl
@[simp] theorem State.setTempOut_tempRaw (s : State) (r : BitVec 64) : (s.setTempOut r).tempRaw = s.tempRaw := rfl
@[simp] theorem State.setTempOut_humOutLo (s : State) (r : BitVec 64) : (s.setTempOut r).humOutLo = s.humOutLo := rfl
@[simp] theorem State.setTempOut_humOutHi (s : State) (r : BitVec 64) : (s.setTempOut r).humOutHi = s.humOutHi := rfl
@[simp] theorem State.setTempOut_tempOutLo (s : State) (r : BitVec 64) : (s.setTempOut r).tempOutLo = r.extractLsb' 0 32 := rfl
@[simp] theorem State.setTempOut_tempOutHi (s : State) (r : BitVec 64) : (s.setTempOut r).tempOutHi = r.extractLsb' 32 32 := rfl
@[simp] theorem State.setTempOut_resetIn (s : State) (r : BitVec 64) : (s.setTempOut r).resetIn = s.resetIn := rfl
@[simp] theorem State.setTempOut_program (s : State) (r : BitVec 64) : (s.setTempOut r).program = s.program := rfl
@[simp] theorem State.setTempOut_responses (s : State) (r : BitVec 64) : (s.setTempOut r).responses = s.responses := rfl

/-! ### `State.invalidate` -/

@[simp] theorem State.invalidate_crcEn (s : State) : (s.invalidate).crcEn = s.crcEn := rfl
@[simp] theorem State.invalidate_err (s : State) : (s.invalidate).err = s.err := rfl
@[simp] theorem State.invalidate_rawValid (s : State) : (s.invalidate).rawValid = false := rfl
@[simp] theorem State.invalidate_outValid (s : State) : (s.invalidate).outValid = false := rfl
@[simp] theorem State.invalidate_crc (s : State) : (s.invalidate).crc = s.crc := rfl
@[simp] theorem State.invalidate_buf0 (s : State) : (s.invalidate).buf0 = s.buf0 := rfl
@[simp] theorem State.invalidate_buf1 (s : State) : (s.invalidate).buf1 = s.buf1 := rfl
@[simp] theorem State.invalidate_statByte (s : State) : (s.invalidate).statByte = s.statByte := rfl
@[simp] theorem State.invalidate_humRaw (s : State) : (s.invalidate).humRaw = s.humRaw := rfl
@[simp] theorem State.invalidate_tempRaw (s : State) : (s.invalidate).tempRaw = s.tempRaw := rfl
@[simp] theorem State.invalidate_humOutLo (s : State) : (s.invalidate).humOutLo = s.humOutLo := rfl
@[simp] theorem State.invalidate_humOutHi (s : State) : (s.invalidate).humOutHi = s.humOutHi := rfl
@[simp] theorem State.invalidate_tempOutLo (s : State) : (s.invalidate).tempOutLo = s.tempOutLo := rfl
@[simp] theorem State.invalidate_tempOutHi (s : State) : (s.invalidate).tempOutHi = s.tempOutHi := rfl
@[simp] theorem State.invalidate_resetIn (s : State) : (s.invalidate).resetIn = s.resetIn := rfl
@[simp] theorem State.invalidate_program (s : State) : (s.invalidate).program = s.program := rfl
@[simp] theorem State.invalidate_responses (s : State) : (s.invalidate).responses = s.responses := rfl

/-! ### `State.flagsUnpacked` -/

@[simp] theorem State.flagsUnpacked_crcEn (s : State) : (s.flagsUnpacked).crcEn = s.crcEn := rfl
@[simp] theorem State.flagsUnpacked_err (s : State) : (s.flagsUnpacked).err = s.err := rfl
@[simp] theorem State.flagsUnpacked_rawValid (s : State) : (s.flagsUnpacked).rawValid = true := rfl
@[simp] theorem State.flagsUnpacked_outValid (s : State) : (s.flagsUnpacked).outValid = false := rfl
@[simp] theorem State.flagsUnpacked_crc (s : State) : (s.flagsUnpacked).crc = s.crc := rfl
@[simp] theorem State.flagsUnpacked_buf0 (s : State) : (s.flagsUnpacked).buf0 = s.buf0 := rfl
@[simp] theorem State.flagsUnpacked_buf1 (s : State) : (s.flagsUnpacked).buf1 = s.buf1 := rfl
@[simp] theorem State.flagsUnpacked_statByte (s : State) : (s.flagsUnpacked).statByte = s.statByte := rfl
@[simp] theorem State.flagsUnpacked_humRaw (s : State) : (s.flagsUnpacked).humRaw = s.humRaw := rfl
@[simp] theorem State.flagsUnpacked_tempRaw (s : State) : (s.flagsUnpacked).tempRaw = s.tempRaw := rfl
@[simp] theorem State.flagsUnpacked_humOutLo (s : State) : (s.flagsUnpacked).humOutLo = s.humOutLo := rfl
@[simp] theorem State.flagsUnpacked_humOutHi (s : State) : (s.flagsUnpacked).humOutHi = s.humOutHi := rfl
@[simp] theorem State.flagsUnpacked_tempOutLo (s : State) : (s.flagsUnpacked).tempOutLo = s.tempOutLo := rfl
@[simp] theorem State.flagsUnpacked_tempOutHi (s : State) : (s.flagsUnpacked).tempOutHi = s.tempOutHi := rfl
@[simp] theorem State.flagsUnpacked_resetIn (s : State) : (s.flagsUnpacked).resetIn = s.resetIn := rfl
@[simp] theorem State.flagsUnpacked_program (s : State) : (s.flagsUnpacked).program = s.program := rfl
@[simp] theorem State.flagsUnpacked_responses (s : State) : (s.flagsUnpacked).responses = s.responses := rfl

/-! ### `State.flagsConverted` -/

@[simp] theorem State.flagsConverted_crcEn (s : State) : (s.flagsConverted).crcEn = s.crcEn := rfl
@[simp] theorem State.flagsConverted_err (s : State) : (s.flagsConverted).err = s.err := rfl
@[simp] theorem State.flagsConverted_rawValid (s : State) : (s.flagsConverted).rawValid = true := rfl
@[simp] theorem State.flagsConverted_outValid (s : State) : (s.flagsConverted).outValid = true := rfl
@[simp] theorem State.flagsConverted_crc (s : State) : (s.flagsConverted).crc = s.crc := rfl
@[simp] theorem State.flagsConverted_buf0 (s : State) : (s.flagsConverted).buf0 = s.buf0 := rfl
@[simp] theorem State.flagsConverted_buf1 (s : State) : (s.flagsConverted).buf1 = s.buf1 := rfl
@[simp] theorem State.flagsConverted_statByte (s : State) : (s.flagsConverted).statByte = s.statByte := rfl
@[simp] theorem State.flagsConverted_humRaw (s : State) : (s.flagsConverted).humRaw = s.humRaw := rfl
@[simp] theorem State.flagsConverted_tempRaw (s : State) : (s.flagsConverted).tempRaw = s.tempRaw := rfl
@[simp] theorem State.flagsConverted_humOutLo (s : State) : (s.flagsConverted).humOutLo = s.humOutLo := rfl
@[simp] theorem State.flagsConverted_humOutHi (s : State) : (s.flagsConverted).humOutHi = s.humOutHi := rfl
@[simp] theorem State.flagsConverted_tempOutLo (s : State) : (s.flagsConverted).tempOutLo = s.tempOutLo := rfl
@[simp] theorem State.flagsConverted_tempOutHi (s : State) : (s.flagsConverted).tempOutHi = s.tempOutHi := rfl
@[simp] theorem State.flagsConverted_resetIn (s : State) : (s.flagsConverted).resetIn = s.resetIn := rfl
@[simp] theorem State.flagsConverted_program (s : State) : (s.flagsConverted).program = s.program := rfl
@[simp] theorem State.flagsConverted_responses (s : State) : (s.flagsConverted).responses = s.responses := rfl

/-! ### `State.clearOutValid` -/

@[simp] theorem State.clearOutValid_crcEn (s : State) : (s.clearOutValid).crcEn = s.crcEn := rfl
@[simp] theorem State.clearOutValid_err (s : State) : (s.clearOutValid).err = s.err := rfl
@[simp] theorem State.clearOutValid_rawValid (s : State) : (s.clearOutValid).rawValid = s.rawValid := rfl
@[simp] theorem State.clearOutValid_outValid (s : State) : (s.clearOutValid).outValid = false := rfl
@[simp] theorem State.clearOutValid_crc (s : State) : (s.clearOutValid).crc = s.crc := rfl
@[simp] theorem State.clearOutValid_buf0 (s : State) : (s.clearOutValid).buf0 = s.buf0 := rfl
@[simp] theorem State.clearOutValid_buf1 (s : State) : (s.clearOutValid).buf1 = s.buf1 := rfl
@[simp] theorem State.clearOutValid_statByte (s : State) : (s.clearOutValid).statByte = s.statByte := rfl
@[simp] theorem State.clearOutValid_humRaw (s : State) : (s.clearOutValid).humRaw = s.humRaw := rfl
@[simp] theorem State.clearOutValid_tempRaw (s : State) : (s.clearOutValid).tempRaw = s.tempRaw := rfl
@[simp] theorem State.clearOutValid_humOutLo (s : State) : (s.clearOutValid).humOutLo = s.humOutLo := rfl
@[simp] theorem State.clearOutValid_humOutHi (s : State) : (s.clearOutValid).humOutHi = s.humOutHi := rfl
@[simp] theorem State.clearOutValid_tempOutLo (s : State) : (s.clearOutValid).tempOutLo = s.tempOutLo := rfl
@[simp] theorem State.clearOutValid_tempOutHi (s : State) : (s.clearOutValid).tempOutHi = s.tempOutHi := rfl
@[simp] theorem State.clearOutValid_resetIn (s : State) : (s.clearOutValid).resetIn = s.resetIn := rfl
@[simp] theorem State.clearOutValid_program (s : State) : (s.clearOutValid).program = s.program := rfl
@[simp] theorem State.clearOutValid_responses (s : State) : (s.clearOutValid).responses = s.responses := rfl

/-! ### `State.clearRawValid` -/

@[simp] theorem State.clearRawValid_crcEn (s : State) : (s.clearRawValid).crcEn = s.crcEn := rfl
@[simp] theorem State.clearRawValid_err (s : State) : (s.clearRawValid).err = s.err := rfl
@[simp] theorem State.clearRawValid_rawValid (s : State) : (s.clearRawValid).rawValid = false := rfl
@[simp] theorem State.clearRawValid_outValid (s : State) : (s.clearRawValid).outValid = s.outValid := rfl
@[simp] theorem State.clearRawValid_crc (s : State) : (s.clearRawValid).crc = s.crc := rfl
@[simp] theorem State.clearRawValid_buf0 (s : State) : (s.clearRawValid).buf0 = s.buf0 := rfl
@[simp] theorem State.clearRawValid_buf1 (s : State) : (s.clearRawValid).buf1 = s.buf1 := rfl
@[simp] theorem State.clearRawValid_statByte (s : State) : (s.clearRawValid).statByte = s.statByte := rfl
@[simp] theorem State.clearRawValid_humRaw (s : State) : (s.clearRawValid).humRaw = s.humRaw := rfl
@[simp] theorem State.clearRawValid_tempRaw (s : State) : (s.clearRawValid).tempRaw = s.tempRaw := rfl
@[simp] theorem State.clearRawValid_humOutLo (s : State) : (s.clearRawValid).humOutLo = s.humOutLo := rfl
@[simp] theorem State.clearRawValid_humOutHi (s : State) : (s.clearRawValid).humOutHi = s.humOutHi := rfl
@[simp] theorem State.clearRawValid_tempOutLo (s : State) : (s.clearRawValid).tempOutLo = s.tempOutLo := rfl
@[simp] theorem State.clearRawValid_tempOutHi (s : State) : (s.clearRawValid).tempOutHi = s.tempOutHi := rfl
@[simp] theorem State.clearRawValid_resetIn (s : State) : (s.clearRawValid).resetIn = s.resetIn := rfl
@[simp] theorem State.clearRawValid_program (s : State) : (s.clearRawValid).program = s.program := rfl
@[simp] theorem State.clearRawValid_responses (s : State) : (s.clearRawValid).responses = s.responses := rfl

/-! ### `State.gateCrc` -/

@[simp] theorem State.gateCrc_crcEn (s : State) (n : Nat) : (s.gateCrc n).crcEn = s.crcEn := rfl
@[simp] theorem State.gateCrc_err (s : State) (n : Nat) : (s.gateCrc n).err = s.err := rfl
@[simp] theorem State.gateCrc_rawValid (s : State) (n : Nat) : (s.gateCrc n).rawValid = s.rawValid := rfl
@[simp] theorem State.gateCrc_outValid (s : State) (n : Nat) : (s.gateCrc n).outValid = s.outValid := rfl
@[simp] theorem State.gateCrc_crc (s : State) (n : Nat) : (s.gateCrc n).crc = if n = 7 then crc8 (s.bufBytes 6) else s.crc := rfl
@[simp] theorem State.gateCrc_buf0 (s : State) (n : Nat) : (s.gateCrc n).buf0 = s.buf0 := rfl
@[simp] theorem State.gateCrc_buf1 (s : State) (n : Nat) : (s.gateCrc n).buf1 = s.buf1 := rfl
@[simp] theorem State.gateCrc_statByte (s : State) (n : Nat) : (s.gateCrc n).statByte = s.statByte := rfl
@[simp] theorem State.gateCrc_humRaw (s : State) (n : Nat) : (s.gateCrc n).humRaw = s.humRaw := rfl
@[simp] theorem State.gateCrc_tempRaw (s : State) (n : Nat) : (s.gateCrc n).tempRaw = s.tempRaw := rfl
@[simp] theorem State.gateCrc_humOutLo (s : State) (n : Nat) : (s.gateCrc n).humOutLo = s.humOutLo := rfl
@[simp] theorem State.gateCrc_humOutHi (s : State) (n : Nat) : (s.gateCrc n).humOutHi = s.humOutHi := rfl
@[simp] theorem State.gateCrc_tempOutLo (s : State) (n : Nat) : (s.gateCrc n).tempOutLo = s.tempOutLo := rfl
@[simp] theorem State.gateCrc_tempOutHi (s : State) (n : Nat) : (s.gateCrc n).tempOutHi = s.tempOutHi := rfl
@[simp] theorem State.gateCrc_resetIn (s : State) (n : Nat) : (s.gateCrc n).resetIn = s.resetIn := rfl
@[simp] theorem State.gateCrc_program (s : State) (n : Nat) : (s.gateCrc n).program = s.program := rfl
@[simp] theorem State.gateCrc_responses (s : State) (n : Nat) : (s.gateCrc n).responses = s.responses := rfl

/-! ### `State.sealFrame` -/

@[simp] theorem State.sealFrame_crcEn (s : State) : (s.sealFrame).crcEn = s.crcEn := rfl
@[simp] theorem State.sealFrame_err (s : State) : (s.sealFrame).err = s.err := rfl
@[simp] theorem State.sealFrame_rawValid (s : State) : (s.sealFrame).rawValid = s.rawValid := rfl
@[simp] theorem State.sealFrame_outValid (s : State) : (s.sealFrame).outValid = s.outValid := rfl
@[simp] theorem State.sealFrame_crc (s : State) : (s.sealFrame).crc = crc8 (s.bufBytes 6) := rfl
@[simp] theorem State.sealFrame_statByte (s : State) : (s.sealFrame).statByte = s.statByte := rfl
@[simp] theorem State.sealFrame_humRaw (s : State) : (s.sealFrame).humRaw = s.humRaw := rfl
@[simp] theorem State.sealFrame_tempRaw (s : State) : (s.sealFrame).tempRaw = s.tempRaw := rfl
@[simp] theorem State.sealFrame_humOutLo (s : State) : (s.sealFrame).humOutLo = s.humOutLo := rfl
@[simp] theorem State.sealFrame_humOutHi (s : State) : (s.sealFrame).humOutHi = s.humOutHi := rfl
@[simp] theorem State.sealFrame_tempOutLo (s : State) : (s.sealFrame).tempOutLo = s.tempOutLo := rfl
@[simp] theorem State.sealFrame_tempOutHi (s : State) : (s.sealFrame).tempOutHi = s.tempOutHi := rfl
@[simp] theorem State.sealFrame_resetIn (s : State) : (s.sealFrame).resetIn = s.resetIn := rfl
@[simp] theorem State.sealFrame_program (s : State) : (s.sealFrame).program = s.program := rfl
@[simp] theorem State.sealFrame_responses (s : State) : (s.sealFrame).responses = s.responses := rfl

/-! ### `State.convertHum` -/

@[simp] theorem State.convertHum_crcEn (s : State) : (s.convertHum).crcEn = s.crcEn := rfl
@[simp] theorem State.convertHum_err (s : State) : (s.convertHum).err = s.err := rfl
@[simp] theorem State.convertHum_rawValid (s : State) : (s.convertHum).rawValid = s.rawValid := rfl
@[simp] theorem State.convertHum_outValid (s : State) : (s.convertHum).outValid = s.outValid := rfl
@[simp] theorem State.convertHum_crc (s : State) : (s.convertHum).crc = s.crc := rfl
@[simp] theorem State.convertHum_buf0 (s : State) : (s.convertHum).buf0 = s.buf0 := rfl
@[simp] theorem State.convertHum_buf1 (s : State) : (s.convertHum).buf1 = s.buf1 := rfl
@[simp] theorem State.convertHum_statByte (s : State) : (s.convertHum).statByte = s.statByte := rfl
@[simp] theorem State.convertHum_humRaw (s : State) : (s.convertHum).humRaw = s.humRaw := rfl
@[simp] theorem State.convertHum_tempRaw (s : State) : (s.convertHum).tempRaw = s.tempRaw := rfl
@[simp] theorem State.convertHum_humOutLo (s : State) : (s.convertHum).humOutLo = (humidityBits s.humRaw.toNat).extractLsb' 0 32 := rfl
@[simp] theorem State.convertHum_humOutHi (s : State) : (s.convertHum).humOutHi = (humidityBits s.humRaw.toNat).extractLsb' 32 32 := rfl
@[simp] theorem State.convertHum_tempOutLo (s : State) : (s.convertHum).tempOutLo = s.tempOutLo := rfl
@[simp] theorem State.convertHum_tempOutHi (s : State) : (s.convertHum).tempOutHi = s.tempOutHi := rfl
@[simp] theorem State.convertHum_resetIn (s : State) : (s.convertHum).resetIn = s.resetIn := rfl
@[simp] theorem State.convertHum_program (s : State) : (s.convertHum).program = s.program := rfl
@[simp] theorem State.convertHum_responses (s : State) : (s.convertHum).responses = s.responses := rfl

/-! ### `State.convertTemp` -/

@[simp] theorem State.convertTemp_crcEn (s : State) : (s.convertTemp).crcEn = s.crcEn := rfl
@[simp] theorem State.convertTemp_err (s : State) : (s.convertTemp).err = s.err := rfl
@[simp] theorem State.convertTemp_rawValid (s : State) : (s.convertTemp).rawValid = s.rawValid := rfl
@[simp] theorem State.convertTemp_outValid (s : State) : (s.convertTemp).outValid = s.outValid := rfl
@[simp] theorem State.convertTemp_crc (s : State) : (s.convertTemp).crc = s.crc := rfl
@[simp] theorem State.convertTemp_buf0 (s : State) : (s.convertTemp).buf0 = s.buf0 := rfl
@[simp] theorem State.convertTemp_buf1 (s : State) : (s.convertTemp).buf1 = s.buf1 := rfl
@[simp] theorem State.convertTemp_statByte (s : State) : (s.convertTemp).statByte = s.statByte := rfl
@[simp] theorem State.convertTemp_humRaw (s : State) : (s.convertTemp).humRaw = s.humRaw := rfl
@[simp] theorem State.convertTemp_tempRaw (s : State) : (s.convertTemp).tempRaw = s.tempRaw := rfl
@[simp] theorem State.convertTemp_humOutLo (s : State) : (s.convertTemp).humOutLo = s.humOutLo := rfl
@[simp] theorem State.convertTemp_humOutHi (s : State) : (s.convertTemp).humOutHi = s.humOutHi := rfl
@[simp] theorem State.convertTemp_tempOutLo (s : State) : (s.convertTemp).tempOutLo = (temperatureBits s.tempRaw.toNat).extractLsb' 0 32 := rfl
@[simp] theorem State.convertTemp_tempOutHi (s : State) : (s.convertTemp).tempOutHi = (temperatureBits s.tempRaw.toNat).extractLsb' 32 32 := rfl
@[simp] theorem State.convertTemp_resetIn (s : State) : (s.convertTemp).resetIn = s.resetIn := rfl
@[simp] theorem State.convertTemp_program (s : State) : (s.convertTemp).program = s.program := rfl
@[simp] theorem State.convertTemp_responses (s : State) : (s.convertTemp).responses = s.responses := rfl

/-! ### `State.resetRegisters` -/

@[simp] theorem State.resetRegisters_crcEn (s : State) : (s.resetRegisters).crcEn = false := rfl
@[simp] theorem State.resetRegisters_err (s : State) : (s.resetRegisters).err = 0 := rfl
@[simp] theorem State.resetRegisters_rawValid (s : State) : (s.resetRegisters).rawValid = false := rfl
@[simp] theorem State.resetRegisters_outValid (s : State) : (s.resetRegisters).outValid = false := rfl
@[simp] theorem State.resetRegisters_crc (s : State) : (s.resetRegisters).crc = 0xFF := rfl
@[simp] theorem State.resetRegisters_buf0 (s : State) : (s.resetRegisters).buf0 = 0 := rfl
@[simp] theorem State.resetRegisters_buf1 (s : State) : (s.resetRegisters).buf1 = 0 := rfl
@[simp] theorem State.resetRegisters_statByte (s : State) : (s.resetRegisters).statByte = 0 := rfl
@[simp] theorem State.resetRegisters_humRaw (s : State) : (s.resetRegisters).humRaw = 0 := rfl
@[simp] theorem State.resetRegisters_tempRaw (s : State) : (s.resetRegisters).tempRaw = 0 := rfl
@[simp] theorem State.resetRegisters_humOutLo (s : State) : (s.resetRegisters).humOutLo = 0 := rfl
@[simp] theorem State.resetRegisters_humOutHi (s : State) : (s.resetRegisters).humOutHi = 0 := rfl
@[simp] theorem State.resetRegisters_tempOutLo (s : State) : (s.resetRegisters).tempOutLo = 0 := rfl
@[simp] theorem State.resetRegisters_tempOutHi (s : State) : (s.resetRegisters).tempOutHi = 0 := rfl
@[simp] theorem State.resetRegisters_resetIn (s : State) : (s.resetRegisters).resetIn = s.resetIn := rfl
@[simp] theorem State.resetRegisters_program (s : State) : (s.resetRegisters).program = s.program := rfl
@[simp] theorem State.resetRegisters_responses (s : State) : (s.resetRegisters).responses = s.responses := rfl

end Sys2Proof.Machine
end

