-- ==== Sys2Proof/Laws/Buffer.lean ====
section
/-! SUPPORT. The frame buffer read after it is written: bytes of a word, bytes of the buffer, the
sequences buf[0 .. n-1], and the fields of a frame. -/

namespace Sys2Proof.Machine

/-! ### Bytes of a word -/

theorem getElem_255 : ∀ (j : Nat) (h : j < 32), (255#32)[j] = decide (j < 8) := by decide

theorem byteOf_setByteOf_same (w : Word) (b : Byte) {k : Nat} (hk : k < 4) : byteOf (setByteOf w k b) k = b := by
  apply BitVec.eq_of_getLsbD_eq
  intro j hj
  have : 8 * k + j < 32 := by omega
  simp [byteOf, setByteOf, hj, this, getElem_255]

theorem byteOf_setByteOf_ne (w : Word) (b : Byte) {k l : Nat} (hl : l < 4) (hkl : l ≠ k) :
    byteOf (setByteOf w k b) l = byteOf w l := by
  apply BitVec.eq_of_getLsbD_eq
  intro j hj
  have : 8 * l + j < 32 := by omega
  by_cases h : 8 * l + j < 8 * k
  · simp [byteOf, setByteOf, hj, this, h]
  · have h1 : ¬ 8 * l + j - 8 * k < 8 := by omega
    simp [byteOf, setByteOf, hj, this, getElem_255, h, h1, BitVec.getLsbD_of_ge b _ (Nat.le_of_not_lt h1)]

theorem word_eq_of_bytes {v w : Word} (h : ∀ k < 4, byteOf v k = byteOf w k) : v = w := by
  apply BitVec.eq_of_getLsbD_eq
  intro j hj
  have := congrArg (fun b => b.getLsbD (j % 8)) (h (j / 8) (by omega))
  simpa [byteOf, Nat.mod_lt, Nat.div_add_mod] using this

/-- A byte of a word as a digit to the base 256. -/
theorem byteOf_toNat (w : Word) (k : Nat) : (byteOf w k).toNat = w.toNat / 256 ^ k % 256 := by
  simp [byteOf, BitVec.extractLsb'_toNat, Nat.shiftRight_eq_div_pow, Nat.pow_mul]

/-! ### Bytes of the buffer -/

/-- Writing one byte of the buffer changes that byte and no other (10_state.md R18). -/
theorem State.buf_setBuf (s : State) (i j : Fin 8) (b : Byte) :
    (s.setBuf i b).buf j = if j = i then b else s.buf j := by
  have hi := i.isLt
  have hj := j.isLt
  by_cases h : j = i
  · subst h
    by_cases h4 : j.val < 4 <;> simp [State.buf, State.setBuf, h4]
    · exact byteOf_setByteOf_same _ _ h4
    · exact byteOf_setByteOf_same _ _ (by omega)
  · have hne : j.val ≠ i.val := fun e => h (Fin.ext e)
    by_cases h4 : j.val < 4 <;> by_cases h5 : i.val < 4 <;> simp [State.buf, State.setBuf, h4, h5, h]
    · exact byteOf_setByteOf_ne _ _ h4 hne
    · exact byteOf_setByteOf_ne _ _ (by omega) (by omega)

@[simp] theorem State.buf_setBuf_same (s : State) (i : Fin 8) (b : Byte) : (s.setBuf i b).buf i = b := by
  simp [State.buf_setBuf]

theorem State.buf_setBuf_ne (s : State) {i j : Fin 8} (b : Byte) (h : j ≠ i) : (s.setBuf i b).buf j = s.buf j := by
  simp [State.buf_setBuf, h]

/-- The buffer's bytes depend on BUF0 and BUF1 alone. -/
theorem State.buf_congr {s t : State} (h0 : t.buf0 = s.buf0) (h1 : t.buf1 = s.buf1) (i : Fin 8) :
    t.buf i = s.buf i := by
  simp [State.buf, h0, h1]

theorem State.buf0_eq_of_bytes {s t : State} (h : ∀ i : Fin 8, i.val < 4 → t.buf i = s.buf i) : t.buf0 = s.buf0 := by
  apply word_eq_of_bytes
  intro k hk
  have := h ⟨k, by omega⟩ hk
  simpa [State.buf, hk] using this

theorem State.buf1_eq_of_bytes {s t : State} (h : ∀ i : Fin 8, 4 ≤ i.val → t.buf i = s.buf i) : t.buf1 = s.buf1 := by
  apply word_eq_of_bytes
  intro k hk
  have := h ⟨k + 4, by omega⟩ (by simp)
  simpa [State.buf] using this

/-- Two states with the same buffer bytes and the same other fields are equal. -/
theorem State.ext_buf {s t : State} (h : ∀ i, t.buf i = s.buf i)
    (h' : { t with buf0 := s.buf0, buf1 := s.buf1 } = s) : t = s := by
  have h0 := State.buf0_eq_of_bytes (s := s) (t := t) fun i _ => h i
  have h1 := State.buf1_eq_of_bytes (s := s) (t := t) fun i _ => h i
  rw [← h0, ← h1] at h'
  exact h'

/-! ### Bytes after the updates that leave the buffer alone -/

variable (s : State) (i : Fin 8)

@[simp] theorem State.buf_setReading (r : Reading) : (s.setReading r).buf i = s.buf i := State.buf_congr rfl rfl i
@[simp] theorem State.buf_setHumOut (r : BitVec 64) : (s.setHumOut r).buf i = s.buf i := State.buf_congr rfl rfl i
@[simp] theorem State.buf_setTempOut (r : BitVec 64) : (s.setTempOut r).buf i = s.buf i := State.buf_congr rfl rfl i
@[simp] theorem State.buf_invalidate : s.invalidate.buf i = s.buf i := State.buf_congr rfl rfl i
@[simp] theorem State.buf_flagsUnpacked : s.flagsUnpacked.buf i = s.buf i := State.buf_congr rfl rfl i
@[simp] theorem State.buf_flagsConverted : s.flagsConverted.buf i = s.buf i := State.buf_congr rfl rfl i
@[simp] theorem State.buf_clearOutValid : s.clearOutValid.buf i = s.buf i := State.buf_congr rfl rfl i
@[simp] theorem State.buf_clearRawValid : s.clearRawValid.buf i = s.buf i := State.buf_congr rfl rfl i
@[simp] theorem State.buf_gateCrc (n : Nat) : (s.gateCrc n).buf i = s.buf i := State.buf_congr rfl rfl i
@[simp] theorem State.buf_convertHum : s.convertHum.buf i = s.buf i := State.buf_congr rfl rfl i
@[simp] theorem State.buf_convertTemp : s.convertTemp.buf i = s.buf i := State.buf_congr rfl rfl i
@[simp] theorem State.buf_with_err (e : BitVec 4) : State.buf { s with err := e } i = s.buf i := State.buf_congr rfl rfl i
@[simp] theorem State.buf_with_crc (c : Byte) : State.buf { s with crc := c } i = s.buf i := State.buf_congr rfl rfl i
@[simp] theorem State.buf_with_crcEn (b : Bool) : State.buf { s with crcEn := b } i = s.buf i := State.buf_congr rfl rfl i
@[simp] theorem State.buf_with_statByte (b : Byte) : State.buf { s with statByte := b } i = s.buf i := State.buf_congr rfl rfl i
@[simp] theorem State.buf_with_crc_err (c : Byte) (e : BitVec 4) :
    State.buf { s with crc := c, err := e } i = s.buf i := State.buf_congr rfl rfl i

/-! ### Sequences of buffer bytes -/

/-- `buf[0 .. n-1]` index by index, for every n the buffer can hold. -/
theorem State.bufBytes_eq_bytesUpTo {n : Nat} (h : n ≤ 8) : s.bufBytes n = s.bytesUpTo n := by
  interval_cases n <;> rfl

theorem State.bufBytes_congr {s t : State} {n : Nat} (hn : n ≤ 8)
    (h : ∀ i : Fin 8, i.val < n → t.buf i = s.buf i) : t.bufBytes n = s.bufBytes n := by
  rw [State.bufBytes_eq_bytesUpTo _ hn, State.bufBytes_eq_bytesUpTo _ hn]
  simp only [State.bytesUpTo]
  apply List.map_congr_left
  intro k hk
  rw [List.mem_range] at hk
  apply h
  simpa [Fin.ofNat, Nat.mod_eq_of_lt (by omega : k < 8)] using hk

/-! ### The fields of a frame -/

/-- What the six bytes written by `encode_fields` are (41_frame_codec.md R74), and that no other changes. -/
theorem State.buf_encodeFields (r : Reading) :
    (s.encodeFields r).buf i =
      if i = 0 then r.status
      else if i = 1 then r.hum.extractLsb' 12 8
      else if i = 2 then r.hum.extractLsb' 4 8
      else if i = 3 then r.hum.extractLsb' 0 4 ++ r.temp.extractLsb' 16 4
      else if i = 4 then r.temp.extractLsb' 8 8
      else if i = 5 then r.temp.extractLsb' 0 8
      else s.buf i := by
  simp only [State.encodeFields, State.buf_setBuf]
  fin_cases i <;> rfl

/-- The bytes of a command frame (41_frame_codec.md R77, R78). -/
theorem State.buf_setCommandFrame (b0 b1 b2 : Byte) :
    (s.setCommandFrame b0 b1 b2).buf i =
      if i = 0 then b0 else if i = 1 then b1 else if i = 2 then b2 else s.buf i := by
  simp only [State.setCommandFrame, State.buf_setBuf]
  fin_cases i <;> rfl

theorem State.sealFrame_eq :
    s.sealFrame = { s.setBuf 6 (crc8 (s.bufBytes 6)) with crc := crc8 (s.bufBytes 6) } := rfl

/-- `seal`: only byte 6 changes. -/
theorem State.buf_sealFrame : s.sealFrame.buf i = if i = 6 then crc8 (s.bufBytes 6) else s.buf i := by
  rw [State.sealFrame_eq, State.buf_with_crc, State.buf_setBuf]

/-- The fields depend on bytes 0 to 5 alone (41_frame_codec.md R71). -/
theorem State.decodeFields_congr {s t : State} (h : ∀ i : Fin 8, i.val < 6 → t.buf i = s.buf i) :
    t.decodeFields = s.decodeFields := by
  simp [State.decodeFields, h 0, h 1, h 2, h 3, h 4, h 5]

/-- H of 41_frame_codec.md R71, as a number. -/
theorem State.decodeFields_hum_toNat : s.decodeFields.hum.toNat = s.frameHum := by
  have h1 := (s.buf 1).isLt; have h2 := (s.buf 2).isLt; have h3 := (s.buf 3).isLt
  simp only [State.decodeFields, State.frameHum, BitVec.toNat_setWidth, BitVec.toNat_ushiftRight, BitVec.toNat_append]
  rw [← Nat.shiftLeft_add_eq_or_of_lt (by omega), ← Nat.shiftLeft_add_eq_or_of_lt (by omega)]
  simp only [Nat.shiftLeft_eq, Nat.shiftRight_eq_div_pow]
  omega

/-- T of 41_frame_codec.md R71, as a number. -/
theorem State.decodeFields_temp_toNat : s.decodeFields.temp.toNat = s.frameTemp := by
  have h1 := (s.buf 3).isLt; have h2 := (s.buf 4).isLt; have h3 := (s.buf 5).isLt
  simp only [State.decodeFields, State.frameTemp, BitVec.toNat_setWidth, BitVec.toNat_and, BitVec.toNat_append]
  rw [← Nat.shiftLeft_add_eq_or_of_lt (by omega), ← Nat.shiftLeft_add_eq_or_of_lt (by omega)]
  have : (0xFFFFF#24).toNat = 2 ^ 20 - 1 := by decide
  rw [this, Nat.and_two_pow_sub_one_eq_mod]
  simp only [Nat.shiftLeft_eq]
  omega

end Sys2Proof.Machine
end

