-- ==== Sys2Proof/Laws/Checksum.lean ====
section
/-! SUPPORT. The checksum functions: one byte as eight rounds, linearity of the rounds, and folding. -/

namespace Sys2Proof.Machine

@[simp] theorem crc8_nil : crc8 [] = 0xFF := rfl

theorem crc8_eq_foldl (seq : List Byte) : crc8 seq = seq.foldl crc8Step 0xFF := by
  simp [crc8, crcXorOut, crcInitValue]

theorem crc8_append (s t : List Byte) : crc8 (s ++ t) = t.foldl crc8Step (crc8 s) := by
  simp [crc8_eq_foldl]

/-- One round on the accumulator as a number. -/
theorem crcShift_toNat : ∀ c : Byte, (crcShift c).toNat = crcRound c.toNat := by decide +kernel

/-- The rounds on the accumulator as a number (40_checksum.md R51). -/
theorem crcShifts_toNat (n : Nat) (c : Byte) : (crcShifts n c).toNat = crcRound^[n] c.toNat := by
  induction n generalizing c with
  | zero => rfl
  | succ n ih => rw [crcShifts, ih, crcShift_toNat, Function.iterate_succ_apply]

/-- A round is linear over XOR. -/
theorem crcShift_xor (a b : Byte) : crcShift (a ^^^ b) = crcShift a ^^^ crcShift b := by
  simp only [crcShift, BitVec.getLsbD_xor]
  apply BitVec.eq_of_getLsbD_eq
  intro i hi
  cases a.getLsbD 7 <;> cases b.getLsbD 7 <;>
    simp [BitVec.shiftLeft_xor_distrib, Bool.xor_comm, Bool.xor_left_comm]

theorem crcShifts_xor (n : Nat) (a b : Byte) : crcShifts n (a ^^^ b) = crcShifts n a ^^^ crcShifts n b := by
  induction n generalizing a b with
  | zero => rfl
  | succ n ih => simp [crcShifts, crcShift_xor, ih]

@[simp] theorem crcShifts_zero (n : Nat) : crcShifts n 0 = 0 := by
  induction n with
  | zero => rfl
  | succ n ih => exact ih

/-- A round loses nothing: different accumulators stay different. -/
theorem crcShift_injective : Function.Injective crcShift := by
  intro a b h
  have hzero : ∀ c : Byte, crcShift c = 0 → c = 0 := by decide +kernel
  have hx : crcShift (a ^^^ b) = 0 := by rw [crcShift_xor, h, BitVec.xor_self]; rfl
  simpa using hzero _ hx

theorem crcShifts_injective (n : Nat) : Function.Injective (crcShifts n) := by
  induction n with
  | zero => exact fun _ _ h => h
  | succ n ih => exact fun a b h => crcShift_injective (ih h)

/-- Folding the same bytes keeps different accumulators different. -/
theorem crcFold_injective (seq : List Byte) : Function.Injective fun c => seq.foldl crc8Step c := by
  induction seq with
  | nil => exact fun _ _ h => h
  | cons b seq ih =>
    intro c d h
    have hx := congrArg (· ^^^ b) (crcShifts_injective 8 (ih h))
    simpa [BitVec.xor_assoc] using hx

end Sys2Proof.Machine
end

