-- ==== Sys2Proof/Laws/Ops.lean ====
section
/-! SUPPORT. What each shared operation can do: how a command ends, the frame gate, a decoded frame,
the window's slots, an executed word, a host operation, a step. -/

namespace Sys2Proof.Machine

/-! ### How a command ends -/

theorem complete_eq (s : State) : complete s = .next { s with err := 0 } := rfl

theorem raiseError_eq (e : ErrKind) (s : State) : raiseError e s = .next { s with err := e.code } := rfl

theorem complete_next_iff {s t : State} : complete s = .next t ↔ t = { s with err := 0 } := by
  simp [complete_eq, eq_comm]

theorem raiseError_next_iff {e : ErrKind} {s t : State} :
    raiseError e s = .next t ↔ t = { s with err := e.code } := by
  simp [raiseError_eq, eq_comm]

/-- The named codes lie in 1 to 4 (60_exceptions.md R110). -/
theorem ErrKind.code_range (e : ErrKind) : 1 ≤ e.code.toNat ∧ e.code.toNat ≤ 4 := by
  cases e <;> decide

/-! ### Commands in sequence -/

@[simp] theorem execAll_nil (s : State) : execAll [] s = .next s := rfl

/-- A command that answers a next state hands it to the commands after it. -/
theorem execAll_cons {i : Instr} {s t : State} (h : exec i s = .next t) (rest : List Instr) :
    execAll (i :: rest) s = execAll rest t := by
  rw [execAll, h]

/-! ### The frame gate (40_checksum.md R57) -/

@[simp] theorem State.gateCrc_six (s : State) : s.gateCrc 6 = s := rfl

theorem State.gateCrc_seven (s : State) : s.gateCrc 7 = { s with crc := crc8 (s.bufBytes 6) } := rfl

/-- With the checksum disabled the gate passes every frame; enabled, never one of 6 bytes. -/
theorem State.gatePasses_six (s : State) : (s.gateCrc 6).gatePasses 6 = !s.crcEn := by
  simp [State.gatePasses]

/-- Enabled, the gate passes a 7-byte frame exactly when byte 6 is the checksum of bytes 0 to 5. -/
theorem State.gatePasses_seven (s : State) :
    (s.gateCrc 7).gatePasses 7 = (!s.crcEn || crc8 (s.bufBytes 6) == s.buf 6) := by
  simp [State.gatePasses]

/-- Everything a decoded frame can come to (41_frame_codec.md R73, 42_unit_converter.md R97). -/
theorem withFrame_cases (len : Nat) (s : State) (accept : State → State) :
    (frameLenAccepts len = true ∧ (s.gateCrc len).gatePasses len = true ∧
      withFrame len s accept = .next { accept ((s.gateCrc len).setReading s.decodeFields) with err := 0 }) ∨
    (frameLenAccepts len = true ∧ (s.gateCrc len).gatePasses len = false ∧
      withFrame len s accept = .next { (s.gateCrc len).invalidate with err := 4 }) ∨
    (frameLenAccepts len = false ∧ withFrame len s accept = .next { s.invalidate with err := 3 }) := by
  unfold withFrame
  cases frameLenAccepts len <;> cases (s.gateCrc len).gatePasses len <;> simp [complete_eq, raiseError_eq, ErrKind.code]

/-! ### The window -/

@[simp] theorem slotAt_offset (r : Reg) : slotAt r.offset = .reg r := by cases r <;> rfl

/-- An access to a register by its name is admitted (30_encoding.md R47). -/
@[simp] theorem admittedSlot_reg (r : Reg) : admittedSlot (.base r.offset) 4 = some (.reg r) := by
  cases r <;> rfl

theorem Slot.write_reg (s : State) (v : Word) {r : Reg} (h : r ≠ .cmd) :
    Slot.write s v (.reg r) = .next (r.store s v) := by
  cases r <;> first | exact absurd rfl h | rfl

theorem memRead_admitted {addr : HostAddr} {n : Nat} {s : State} {slot : Slot} (hr : s.resetIn = false)
    (hs : admittedSlot addr n = some slot) :
    memRead addr n s = .next { s with responses := s.responses ++ [slot.read s] } := by
  unfold memRead
  rw [hr, hs]
  rfl

theorem memWrite_admitted {addr : HostAddr} {n : Nat} {s : State} {slot : Slot} (v : Word)
    (hr : s.resetIn = false) (hs : admittedSlot addr n = some slot) : memWrite addr n v s = slot.write s v := by
  unfold memWrite
  rw [hr, hs]
  rfl

/-- Everything a host operation can do. -/
theorem hostOp_cases {op : HostOp} {s t : State} (h : hostOp op s = .next t) :
    (∃ addr n slot, op = .read addr n ∧ s.resetIn = false ∧ admittedSlot addr n = some slot ∧
      t = { s with responses := s.responses ++ [slot.read s] }) ∨
    (∃ addr n v, op = .write addr n v ∧ s.resetIn = false ∧ admittedSlot addr n = some (.reg .cmd) ∧
      execute v s = .next t) ∨
    (∃ addr n v r, op = .write addr n v ∧ s.resetIn = false ∧ admittedSlot addr n = some (.reg r) ∧ r ≠ .cmd ∧
      t = r.store s v) ∨
    (∃ addr n v, op = .write addr n v ∧ s.resetIn = false ∧ admittedSlot addr n = some .reserved ∧ t = s) ∨
    (op = .powerUp ∧ t = s.resetRegisters) ∨
    (op = .assertReset ∧ t = { s.resetRegisters with resetIn := true }) ∨
    (op = .releaseReset ∧ t = { s with resetIn := false }) := by
  cases op with
  | read addr n =>
    left
    simp only [hostOp, memRead] at h
    split at h
    · cases h
    · split at h
      · cases h
      · rename_i hr _ slot hs
        exact ⟨addr, n, slot, rfl, by simpa using hr, hs, by cases h; rfl⟩
  | write addr n v =>
    right
    simp only [hostOp, memWrite] at h
    split at h
    · cases h
    · rename_i hr
      have hr : s.resetIn = false := by simpa using hr
      split at h
      · cases h
      · rename_i slot hs
        cases slot with
        | reserved => exact .inr (.inr (.inl ⟨addr, n, v, rfl, hr, hs, by cases h; rfl⟩))
        | reg r =>
          by_cases hc : r = .cmd
          · subst hc; exact .inl ⟨addr, n, v, rfl, hr, hs, h⟩
          · refine .inr (.inl ⟨addr, n, v, r, rfl, hr, hs, hc, ?_⟩)
            cases r <;> first | exact absurd rfl hc | (cases h; rfl)
  | powerUp => cases h; simp
  | assertReset => cases h; simp
  | releaseReset => cases h; simp

/-- An executed word ends as its command does, or raises IllegalCommand (43_control.md R100). -/
theorem execute_cases (w : Word) (s : State) :
    (∃ i, decode w = .command i ∧ execute w s = exec i s) ∨
    (∃ why, decode w = .illegal why ∧ execute w s = .next { s with err := 1 }) := by
  unfold execute
  cases h : decode w with
  | command i => exact .inl ⟨i, rfl, rfl⟩
  | illegal why => exact .inr ⟨why, rfl, rfl⟩

/-- A step is the host's next operation, or nothing. -/
theorem step_cases {s t : State} (h : step s = .next t) :
    (s.program = [] ∧ t = s) ∨
    ∃ op rest, s.program = op :: rest ∧ hostOp op { s with program := rest } = .next t := by
  unfold step at h
  split at h
  · rename_i hp; cases h; exact .inl ⟨hp, rfl⟩
  · rename_i op rest hp; exact .inr ⟨op, rest, hp, h⟩

end Sys2Proof.Machine
end

