-- ==== Sys2Proof/Laws/PerInstr.lean ====
section
/-! SUPPORT. Statements about every command as syntax, one lemma for each constructor. -/

namespace Sys2Proof.Laws.RowMatch

/-- The mask of a command's row in spec/opcode_table.json. -/
def rowMask : Instr → Word
  | .nop => 0xFFFFFFFF
  | .crcInit => 0xFFFFFFFF
  | .crcFeed _ => 0xFF00FFFF
  | .crcBuf _ => 0xFFFFF0FF
  | .crcVerify _ => 0xFFFFF0FF
  | .unpack _ => 0xFFFFF0FF
  | .pack _ => 0xFFFFF0FF
  | .packMeasureCmd => 0xFFFFFFFF
  | .packInitCmd => 0xFFFFFFFF
  | .convHum => 0xFFFFFFFF
  | .convTemp => 0xFFFFFFFF
  | .unpackConvert _ => 0xFFFFF0FF

/-- The match value of a command's row in spec/opcode_table.json. -/
def rowMatch : Instr → Word
  | .nop => 0x00000000
  | .crcInit => 0x00000001
  | .crcFeed _ => 0x00000002
  | .crcBuf _ => 0x00000003
  | .crcVerify _ => 0x00000004
  | .unpack _ => 0x00000005
  | .pack _ => 0x00000006
  | .packMeasureCmd => 0x00000007
  | .packInitCmd => 0x00000008
  | .convHum => 0x00000009
  | .convTemp => 0x0000000A
  | .unpackConvert _ => 0x0000000B

/-- The encoder's word of a command matches its row of the opcode table. -/
def Statement (i : Instr) : Prop := encode i &&& rowMask i = rowMatch i

theorem commandWord_len_match : ∀ op len : BitVec 4,
    commandWord op len 0 &&& 0xFFFFF0FF#32 = op.setWidth 32 := by decide +kernel

theorem commandWord_data_match : ∀ data : Byte, commandWord 2 0 data &&& 0xFF00FFFF#32 = 2#32 := by decide +kernel

theorem nop : Statement .nop := rfl
theorem crcInit : Statement .crcInit := rfl
theorem crcFeed (data : Byte) : Statement (.crcFeed data) := commandWord_data_match data
theorem crcBuf (len : Nat) : Statement (.crcBuf len) := commandWord_len_match _ _
theorem crcVerify (len : Nat) : Statement (.crcVerify len) := commandWord_len_match _ _
theorem unpack (len : Nat) : Statement (.unpack len) := commandWord_len_match _ _
theorem pack (len : Nat) : Statement (.pack len) := commandWord_len_match _ _
theorem packMeasureCmd : Statement .packMeasureCmd := rfl
theorem packInitCmd : Statement .packInitCmd := rfl
theorem convHum : Statement .convHum := rfl
theorem convTemp : Statement .convTemp := rfl
theorem unpackConvert (len : Nat) : Statement (.unpackConvert len) := commandWord_len_match _ _

end Sys2Proof.Laws.RowMatch
end

