-- ==== Sys2Proof/Tests/Slice0.lean ====
section
/-! SUPPORT. Tests, with expected results taken from spec/95_test_vectors.md and the rules' own examples,
and, for each statement with hypotheses, witnesses that meet them. -/

namespace Sys2Proof.Tests

open Sys2Proof Sys2Proof.Machine

section

-- One theorem at a time: each kernel evaluation waits for those before it, and a thread per waiting
-- theorem is more than the check's memory limit gives.
set_option Elab.async false

/-! ### Helpers -/

/-- The outcome is a next state with the given property. -/
def answers (o : Host.Outcome State Fault Refusal) (p : State → Bool) : Bool :=
  match o with
  | .next t => p t
  | .fault _ => false
  | .refused _ => false

/-- The outcome is the given fault. -/
def faultsWith (o : Host.Outcome State Fault Refusal) (f : Fault) : Bool :=
  match o with
  | .next _ => false
  | .fault g => g == f
  | .refused _ => false

theorem exists_of_answers {o : Host.Outcome State Fault Refusal} {p : State → Prop} [DecidablePred p]
    (h : answers o (fun t => decide (p t)) = true) : ∃ t, o = .next t ∧ p t := by
  cases o with
  | next t => exact ⟨t, rfl, by simpa [answers] using h⟩
  | fault f => cases h
  | refused r => cases h

/-- One step from `s` with the command word `w` placed as the host's next operation. -/
def placed (w : Word) (s : State) : Host.Outcome State Fault Refusal := step (s.withFetchWord 32 w.toNat)

/-- The reset state with the given buffer words and CTRL.CRC_EN. -/
def withBuffer (b0 b1 : Word) (en : Bool) : State := { State.reset with buf0 := b0, buf1 := b1, crcEn := en }

/-- The frame 1C 19 99 9A 66 66 3A ("good" in 95_test_vectors.md section 2.5). -/
def goodFrame (en : Bool) : State := withBuffer 0x9A99191C 0x003A6666 en

/-- The reset state with the given STAT_BYTE, HUM_RAW and TEMP_RAW. -/
def withRaw (b : Byte) (h t : Word) : State := { State.reset with statByte := b, humRaw := h, tempRaw := t }

/-! ### WellFormed: for each check a term it refuses (30_encoding.md R46) -/

theorem test_wellFormed_refuses_crcBuf : ¬(Instr.crcBuf 16).WellFormed := by decide
theorem test_wellFormed_refuses_crcVerify : ¬(Instr.crcVerify 16).WellFormed := by decide
theorem test_wellFormed_refuses_unpack : ¬(Instr.unpack 16).WellFormed := by decide
theorem test_wellFormed_refuses_pack : ¬(Instr.pack 16).WellFormed := by decide
theorem test_wellFormed_refuses_unpackConvert : ¬(Instr.unpackConvert 16).WellFormed := by decide
theorem test_wellFormed_takes_length_nine : (Instr.unpack 9).WellFormed := by decide

/-! ### Decoding: words written out from the patterns of 30_encoding.md R43 -/

theorem test_decode_nop : decode 0b00000000_00000000_0000_0000_0000_0000#32 = .command .nop := by decide
theorem test_decode_crcInit : decode 0b00000000_00000000_0000_0000_0000_0001#32 = .command .crcInit := by decide
theorem test_decode_crcFeed : decode 0b00000000_10101011_0000_0000_0000_0010#32 = .command (.crcFeed 0xAB) := by decide
theorem test_decode_crcBuf : decode 0b00000000_00000000_0000_1000_0000_0011#32 = .command (.crcBuf 8) := by decide
theorem test_decode_crcVerify : decode 0b00000000_00000000_0000_0111_0000_0100#32 = .command (.crcVerify 7) := by decide
theorem test_decode_unpack : decode 0b00000000_00000000_0000_0110_0000_0101#32 = .command (.unpack 6) := by decide
theorem test_decode_pack : decode 0b00000000_00000000_0000_0111_0000_0110#32 = .command (.pack 7) := by decide
theorem test_decode_packMeasureCmd :
    decode 0b00000000_00000000_0000_0000_0000_0111#32 = .command .packMeasureCmd := by decide
theorem test_decode_packInitCmd :
    decode 0b00000000_00000000_0000_0000_0000_1000#32 = .command .packInitCmd := by decide
theorem test_decode_convHum : decode 0b00000000_00000000_0000_0000_0000_1001#32 = .command .convHum := by decide
theorem test_decode_convTemp : decode 0b00000000_00000000_0000_0000_0000_1010#32 = .command .convTemp := by decide
theorem test_decode_unpackConvert :
    decode 0b00000000_00000000_0000_0111_0000_1011#32 = .command (.unpackConvert 7) := by decide

/-- The illegal words of 95_test_vectors.md section 2.4 with OP 0x0 to 0xB. -/
theorem test_decode_illegal_fields :
    [0x00000802#32, 0x00010003, 0x00000010, 0x00001005, 0x01000000, 0x00000101, 0x00000109].map decode =
      List.replicate 7 (.illegal .nonzeroField) := by decide +kernel

/-- The illegal words of 95_test_vectors.md section 2.4 with a reserved OP. -/
theorem test_decode_illegal_op :
    [0x0000000C#32, 0x0000000D, 0x0000000E, 0x0000000F, 0xFFFFFFFF].map decode =
      List.replicate 5 (.illegal .reservedOp) := by decide +kernel

/-! ### Assembler lines (30_encoding.md R46; words of 95_test_vectors.md sections 2.4 and 3) -/

theorem test_assemble_unpack_nine : assembleLine "UNPACK 9".toList = some 0x00000905 := by decide +kernel
theorem test_assemble_feed_hex : assembleLine "CRC_FEED 0x31".toList = some 0x00310002 := by decide +kernel
theorem test_assemble_plain : assembleLine "PACK_INIT_CMD".toList = some 0x00000008 := by decide +kernel
theorem test_assemble_out_of_range : assembleLine "CRC_FEED 256".toList = none := by decide +kernel
theorem test_assemble_length_sixteen : assembleLine "PACK 16".toList = none := by decide +kernel
theorem test_assemble_missing_operand : assembleLine "CRC_BUF".toList = none := by decide +kernel

/-! ### One step of each command -/

/-- 43_control.md R101, example: STATUS 0x14 becomes 0x10. -/
theorem test_nop : answers (placed 0x00000000 { State.reset with err := 4, rawValid := true })
    (fun t => t.statusWord == 0x10) := by decide +kernel

/-- 95_test_vectors.md C1. -/
theorem test_crcInit : answers (placed 0x00000001 { State.reset with crc := 0x3A })
    (fun t => t.crc == 0xFF && t.statusWord == 0) := by decide +kernel

/-- 95_test_vectors.md C2. -/
theorem test_crcFeed_zero : answers (placed 0x00000002 State.reset)
    (fun t => t.crc == 0xAC && t.statusWord == 0) := by decide +kernel

/-- 95_test_vectors.md C4: the residue. -/
theorem test_crcFeed_residue : answers (placed 0x00F70002 { State.reset with crc := 0xF7 })
    (fun t => t.crc == 0x00) := by decide +kernel

/-- 95_test_vectors.md C7: LEN 8 includes buf[7]. -/
theorem test_crcBuf_eight : answers (placed 0x00000803 (withBuffer 0x04030201 0x08070605 false))
    (fun t => t.crc == 0xD0 && t.statusWord == 0) := by decide +kernel

/-- 95_test_vectors.md C8. -/
theorem test_crcBuf_nine : answers (placed 0x00000903 { State.reset with crc := 0x12 })
    (fun t => t.crc == 0x12 && t.statusWord == 0x02) := by decide +kernel

/-- 95_test_vectors.md C11 started with STATUS 0x30, as in C16: CRC is written, the flags stay. -/
theorem test_crcVerify_mismatch :
    answers (placed 0x00000704 { withBuffer 0x9A99191C 0x003A6766 true with rawValid := true, outValid := true })
      (fun t => t.crc == 0x0B && t.statusWord == 0x34) := by decide +kernel

/-- 95_test_vectors.md C12: the empty prefix. -/
theorem test_crcVerify_one : answers (placed 0x00000104 (withBuffer 0x000000FF 0 false))
    (fun t => t.crc == 0xFF && t.statusWord == 0) := by decide +kernel

/-- 95_test_vectors.md section 2.5, CRC_EN = 1, UNPACK 7, good. -/
theorem test_unpack_good : answers (placed 0x00000705 (goodFrame true))
    (fun t => t.statusWord == 0x10 && t.crc == 0x3A && t.statByte == 0x1C && t.humRaw == 0x19999 &&
      t.tempRaw == 0xA6666) := by decide +kernel

/-- 95_test_vectors.md section 2.5, CRC_EN = 1, UNPACK 6, started with STATUS 0x30. -/
theorem test_unpack_six_gated :
    answers (placed 0x00000605 { goodFrame true with rawValid := true, outValid := true })
      (fun t => t.statusWord == 0x04 && t.crc == 0xFF && t.humRaw == 0) := by decide +kernel

/-- 95_test_vectors.md section 2.7, row 2: bytes 6 and 7 and CRC are kept. -/
theorem test_pack_six : answers (placed 0x00000606 { withRaw 0x1C 0x66666 0x5EB85 with buf1 := 0xDDCCBBAA })
    (fun t => t.buf0 == 0x6566661C && t.buf1 == 0xDDCC85EB && t.crc == 0xFF && t.statusWord == 0) := by decide +kernel

/-- 95_test_vectors.md section 2.7, row 1. -/
theorem test_pack_seven : answers (placed 0x00000706 (withRaw 0x18 0x12345 0x6789A))
    (fun t => t.buf0 == 0x56341218 && t.buf1 == 0x00859A78 && t.crc == 0x85) := by decide +kernel

/-- 95_test_vectors.md section 2.8, row 1: byte 3 is kept. -/
theorem test_packMeasureCmd : answers (placed 0x00000007 (withBuffer 0x9A99191C 0 false))
    (fun t => t.buf0 == 0x9A0033AC) := by decide +kernel

/-- 95_test_vectors.md section 2.8, row 3. -/
theorem test_packInitCmd : answers (placed 0x00000008 State.reset) (fun t => t.buf0 == 0x000008BE) := by decide +kernel

/-- 95_test_vectors.md section 2.9, the largest operand: bits 31:20 are used. -/
theorem test_convHum_largest : answers (placed 0x00000009 (withRaw 0 0xFFFFFFFF 0))
    (fun t => t.humOutHi == 0x4118FFFF && t.humOutLo == 0xFFE70000) := by decide +kernel

/-- 95_test_vectors.md section 2.10, row 5: OUT_VALID is cleared. -/
theorem test_convHum_flags : answers (placed 0x00000009 { State.reset with rawValid := true, outValid := true })
    (fun t => t.statusWord == 0x10) := by decide +kernel

/-- 95_test_vectors.md section 2.9: a negative result. -/
theorem test_convTemp_negative : answers (placed 0x0000000A (withRaw 0 0 0x3FFFF))
    (fun t => t.tempOut == 0xBF29000000000000) := by decide +kernel

/-- 95_test_vectors.md section 2.9: +0.0, never -0.0. -/
theorem test_convTemp_zero : answers (placed 0x0000000A { withRaw 0 0 0x40000 with tempOutHi := 0xC0490000 })
    (fun t => t.tempOut == 0) := by decide +kernel

/-- 95_test_vectors.md section 2.10, row 1. -/
theorem test_unpackConvert : answers (placed 0x0000070B (goodFrame true))
    (fun t => t.statusWord == 0x30 && t.humOut == 0x4023FFF880000000 && t.tempOut == 0x4053FFFEC0000000 &&
      t.crc == 0x3A) := by decide +kernel

/-- 95_test_vectors.md section 2.10, row 4. -/
theorem test_unpackConvert_gated :
    answers (placed 0x0000060B { withBuffer 0x0400801C 0 true with humOutHi := 5, outValid := true })
      (fun t => t.statusWord == 0x04 && t.humOutHi == 5) := by decide +kernel

/-- 43_control.md R102, example. -/
theorem test_illegal : answers (placed 0x0000000F { State.reset with rawValid := true })
    (fun t => t == { State.reset with rawValid := true, err := 1 }) := by decide +kernel

/-! ### Host accesses (95_test_vectors.md section 2.11) -/

/-- `wr CTRL, 0xFFFFFFFF`. -/
theorem test_write_ctrl : answers (hostOp (wrOp .ctrl 0xFFFFFFFF) State.reset) (fun t => t.ctrlWord == 1) := by decide

/-- `wr STAT_BYTE, 0x000001FF`. -/
theorem test_write_statByte :
    answers (hostOp (wrOp .statByte 0x1FF) { State.reset with rawValid := true, outValid := true })
      (fun t => t.statByteWord == 0xFF && t.statusWord == 0x20) := by decide

/-- `wr STATUS, 0x12345678`: no effect. -/
theorem test_write_status :
    answers (hostOp (wrOp .status 0x12345678) State.reset) (fun t => t == State.reset) := by decide

/-- `rd` at offset 0x3C. -/
theorem test_read_reserved : answers (hostOp (.read (.base 0x3C) 4) State.reset) (fun t => t.responses == [0]) := by
  decide

/-- A misaligned read, a byte read, a halfword command and a read past the window. -/
theorem test_not_admitted :
    ∀ op ∈ [HostOp.read (.base 0x02) 4, .read (.base 0x10) 1, .write (.base 0x04) 2 1, .read (.base 0x40) 4],
      faultsWith (hostOp op State.reset) .notAdmitted := by decide

/-! ### Witnesses: hypotheses that are met -/

theorem witness_DecodeOfEncodeIsTheCommand :
    (Instr.crcVerify 0).WellFormed ∧ (Instr.crcVerify 15).WellFormed ∧ (Instr.crcFeed 0xFF).WellFormed := by decide

theorem witness_EncodeOfDecodeIsTheWord : decode 0x00FF0002 = .command (.crcFeed 0xFF) := by decide

theorem witness_DecodeIsTheRowThatMatches :
    (∃ row ∈ decodeRows, ∃ w : Word, w &&& row.1 = row.2.1) ∧
    (∀ row ∈ decodeRows, 0x0000000C#32 &&& row.1 ≠ row.2.1) := by
  exact ⟨⟨_, List.mem_cons_self, 0, by decide⟩, by decide⟩

/-- One word for each way to be illegal (30_encoding.md R44). -/
theorem witness_IllegalWordsAreTheReservedOnes :
    12 ≤ ((0x0000000C#32).extractLsb' 0 4).toNat ∧ (0x00000010#32).extractLsb' 4 4 ≠ 0 ∧
    (0x00001005#32).extractLsb' 12 4 ≠ 0 ∧ (0x01000000#32).extractLsb' 24 8 ≠ 0 ∧
    (0x00000802#32).extractLsb' 8 4 ≠ 0 ∧ (0x00010003#32).extractLsb' 16 8 ≠ 0 := by decide

theorem witness_AssemblerSpellsExactlyTheCommands :
    (Instr.unpackConvert 15).WellFormed ∧ (Instr.crcFeed 0xFF).WellFormed ∧
    ∃ w, assembleLine "UNPACK 15".toList = some w :=
  ⟨by decide, by decide, 0x00000F05, by decide +kernel⟩

/-- A legal and an illegal word, at either spelling of the address of CMD. -/
theorem witness_StepRunsTheDecodedCommand :
    State.reset.resetIn = false ∧ (HostAddr.base 0x04).value = Config.base + 0x04 ∧
    (HostAddr.abs (Config.base + 0x04)).value = Config.base + 0x04 ∧
    decode 0x00000803 = .command (.crcBuf 8) ∧ decode 0x0000000C = .illegal .reservedOp := by
  exact ⟨rfl, rfl, rfl, by decide, by decide⟩

theorem witness_PlacedWordIsTheNextCommand : decode 0x0000070B = .command (.unpackConvert 7) := by decide

/-- The first and the last admitted address. -/
theorem witness_AdmittedIsFourBytesAlignedInWindow :
    Admitted (.base 0x00) 4 ∧ Admitted (.base 0x3C) 4 ∧ Admitted (.abs (Config.base + 0x3C)) 4 := by
  have : Config.base % 4 = 0 := by unfold Config.base; omega
  simp only [Admitted, HostAddr.value]
  exact ⟨⟨trivial, by omega, by omega, by omega⟩, ⟨trivial, by omega, by omega, by omega⟩, trivial, by omega, by omega, by omega⟩

/-- A wrong width, a wrong alignment, and the addresses next to the window. -/
theorem witness_NotAdmittedAccessFaults :
    ¬Admitted (.base 0x10) 1 ∧ ¬Admitted (.base 0x10) 8 ∧ ¬Admitted (.base 0x02) 4 ∧ ¬Admitted (.base 0x40) 4 ∧
    (0 < Config.base → ¬Admitted (.abs (Config.base - 4)) 4) := by
  have : Config.base % 4 = 0 := by unfold Config.base; omega
  simp only [Admitted, HostAddr.value]
  refine ⟨by omega, by omega, by omega, by omega, fun h => by omega⟩

/-- Every row of the table has a read that reaches it. -/
theorem witness_ReadReturnsTheSlotWord : ∀ row ∈ readTable, ∃ s : State,
    s.resetIn = false ∧ s.program = [.read (.base row.1) 4] ∧ (HostAddr.base row.1).value = Config.base + row.1 :=
  fun row _ => ⟨{ State.reset with program := [.read (.base row.1) 4] }, rfl, rfl, rfl⟩

/-- Every row of the table has a write that reaches it, and so has CMD. -/
theorem witness_WriteDoesTheSlotsCase :
    (∀ row ∈ writeTable, ∃ s : State,
      s.resetIn = false ∧ s.program = [.write (.base row.1) 4 0xFFFFFFFF] ∧
        (HostAddr.base row.1).value = Config.base + row.1) ∧
    ∃ s : State, s.resetIn = false ∧ s.program = [.write (.base 0x04) 4 0x00000009] :=
  ⟨fun row _ => ⟨{ State.reset with program := [.write (.base row.1) 4 0xFFFFFFFF] }, rfl, rfl, rfl⟩,
   { State.reset with program := [.write (.base 0x04) 4 0x00000009] }, rfl, rfl⟩

theorem witness_AccessesButCommandsAreIdempotent :
    ((HostAddr.base 0x18).value ≠ Config.base + 0x04 ∧
      ∃ t, hostOp (.write (.base 0x18) 4 0xFF) State.reset = .next t ∧ t.statByte = 0xFF) ∧
    ∃ t, hostOp (.read (.base 0x3C) 4) State.reset = .next t ∧ t.responses = [0] := by
  refine ⟨⟨?_, exists_of_answers (by decide)⟩, exists_of_answers (by decide)⟩
  simp [HostAddr.value]

theorem witness_ResetGivesTheListedValues :
    (∃ t, hostOp .powerUp { State.reset with buf0 := 7, crc := 1 } = .next t ∧ t.buf0 = 0) ∧
    ∃ t, hostOp .assertReset { State.reset with buf0 := 7, crc := 1 } = .next t ∧ t.crc = 0xFF :=
  ⟨exists_of_answers (by decide), exists_of_answers (by decide)⟩

theorem witness_AccessDuringResetFaults :
    (∃ t, hostOp .assertReset State.reset = .next t ∧ t.resetIn = true) ∧ Admitted (.base 0x3C) 4 :=
  ⟨exists_of_answers (by decide), witness_AdmittedIsFourBytesAlignedInWindow.2.1⟩

/-- A host program that keeps the contract, and one that does not. -/
theorem witness_RunIsSafeExactlyWhenContractIsKept :
    KeepsContract false [.read (.base 0x3C) 4] ∧ ¬KeepsContract true [.read (.base 0x3C) 4] :=
  ⟨⟨rfl, witness_AdmittedIsFourBytesAlignedInWindow.2.1, trivial⟩, fun h => Bool.noConfusion h.1⟩

theorem witness_StepsMakeTheRunInOrder :
    ∃ t, runOps [wrOp .ctrl 1, rdOp .ctrl] State.reset = .next t ∧ t.responses = [1] := exists_of_answers (by decide)

theorem witness_LoadFramePutsTheBytesInOrder : State.reset.resetIn = false ∧
    (HostForm.ldFrame [0x1C]).wellFormed = true ∧
    (HostForm.ldFrame [0x1C, 0x19, 0x99, 0x9A, 0x66, 0x66, 0x3A, 0x00]).wellFormed = true := by decide

theorem witness_SingleBitFlipChangesTheChecksum : 0 < 8 ∧ 7 < 8 := by decide

theorem witness_StreamedBytesGiveTheirChecksum : State.reset.resetIn = false := rfl

theorem witness_NopClearsOnlyErr : ∀ s : State, execute 0x00000000 s = .next { s with err := 0 } := fun _ => rfl

theorem witness_CrcFeedFoldsOneByte : ({ State.reset with crc := 0 } : State).crc = 0 := rfl

theorem witness_CrcBufChecksumsTheFirstBytes : 15 ≤ 15 ∧ 0 ≤ 8 ∧ 8 ≤ 8 ∧ 9 ≤ 9 := by decide

theorem witness_CrcVerifyComparesTheLastByte : 15 ≤ 15 ∧ (0 = 0 ∨ 9 ≤ 0) ∧ (9 = 0 ∨ 9 ≤ 9) := by decide

/-- The frame "bad" of 95_test_vectors.md section 2.5. -/
def badFrame (en : Bool) : State := withBuffer 0x9A99191C 0x003B6666 en

theorem goodFrame_checksum : (goodFrame true).buf 6 = crc8 ((goodFrame true).bytesUpTo 6) := by decide +kernel

theorem badFrame_checksum : (badFrame true).buf 6 ≠ crc8 ((badFrame true).bytesUpTo 6) := by decide +kernel

/-- One state for each clause of the two decoding commands. -/
theorem witness_UnpackDecodesTheFrameOrRaises :
    (badFrame false).crcEn = false ∧ (goodFrame true).buf 6 = crc8 ((goodFrame true).bytesUpTo 6) ∧
    (goodFrame true).crcEn = true ∧
    ((badFrame true).crcEn = true ∧ (badFrame true).buf 6 ≠ crc8 ((badFrame true).bytesUpTo 6)) ∧
    (5 ≠ 6 ∧ 5 ≠ 7) ∧ (8 ≠ 6 ∧ 8 ≠ 7) :=
  ⟨rfl, goodFrame_checksum, rfl, ⟨rfl, badFrame_checksum⟩, by decide, by decide⟩

theorem witness_UnpackConvertDecodesAndConverts :
    ((6 = 6 ∧ (badFrame false).crcEn = false) ∧ (7 = 7 ∧ (badFrame false).crcEn = false)) ∧
    (7 = 7 ∧ (goodFrame true).buf 6 = crc8 ((goodFrame true).bytesUpTo 6)) ∧ (goodFrame true).crcEn = true ∧
    ((badFrame true).crcEn = true ∧ (badFrame true).buf 6 ≠ crc8 ((badFrame true).bytesUpTo 6)) ∧
    (15 ≠ 6 ∧ 15 ≠ 7) :=
  ⟨⟨⟨rfl, rfl⟩, rfl, rfl⟩, ⟨rfl, goodFrame_checksum⟩, rfl, ⟨rfl, badFrame_checksum⟩, by decide⟩

/-- The largest raw value that fits and the smallest that does not. -/
theorem witness_PackBuildsTheFrameOrRaises :
    (0xFFFFF#32).toNat < 2 ^ 20 ∧ 2 ^ 20 ≤ (0x100000#32).toNat ∧ (5 ≠ 6 ∧ 5 ≠ 7) ∧ (8 ≠ 6 ∧ 8 ≠ 7) := by decide

theorem witness_UnpackConvertIsUnpackThenBothConversions :
    (∃ a, exec (.unpack 7) (goodFrame true) = .next a ∧ a.err = 0) ∧
    ∃ a, exec (.unpack 6) (goodFrame false) = .next a ∧ a.err = 0 :=
  ⟨exists_of_answers (by decide +kernel), exists_of_answers (by decide +kernel)⟩

theorem witness_ToBinary64IsExact :
    (0 : Int).natAbs < 2 ^ 53 ∧ (2 ^ 53 - 1 : Int).natAbs < 2 ^ 53 ∧ (1 - 2 ^ 53 : Int).natAbs < 2 ^ 53 := by decide

theorem witness_ConvertedValuesAreNotClamped :
    0xFFFFF < 2 ^ 32 ∧ 0xFFFFF ≤ 0xFFFFF ∧ 2 ^ 20 < 2 ^ 32 ∧ 2 ^ 20 < 2 ^ 20 + 1 ∧ 0xFFFFFFFF < 2 ^ 32 := by decide

/-- The three cases of the two laws. -/
theorem witness_PackThenUnpackRestoresTheReading :
    (∃ t, exec (.pack 7) { withRaw 0x18 0x12345 0xFFFFF with crcEn := true } = .next t ∧ t.err = 0) ∧
    (∃ t, exec (.pack 6) (withRaw 0x18 0xFFFFF 0x6789A) = .next t ∧ t.err = 0) ∧
    ∃ t, exec (.pack 6) { withRaw 0 0 0 with crcEn := true } = .next t ∧ t.err = 0 :=
  ⟨exists_of_answers (by decide +kernel), exists_of_answers (by decide +kernel), exists_of_answers (by decide +kernel)⟩

theorem witness_UnpackThenPackKeepsTheBuffer :
    (∃ t, exec (.unpack 6) (badFrame false) = .next t ∧ t.err = 0) ∧
    (∃ t, exec (.unpack 7) (badFrame false) = .next t ∧ t.err = 0) ∧
    ∃ t, exec (.unpack 7) (goodFrame true) = .next t ∧ t.err = 0 :=
  ⟨exists_of_answers (by decide +kernel), exists_of_answers (by decide +kernel), exists_of_answers (by decide +kernel)⟩

/-- Each of the three causes, at a boundary, raises the error. -/
theorem witness_InvalidArgumentHasThreeCauses :
    (∃ t, execute 0x00000903 State.reset = .next t ∧ t.err = 2) ∧
    (∃ t, execute 0x00000004 State.reset = .next t ∧ t.err = 2) ∧
    ∃ t, execute 0x00000606 (withRaw 0 0 0x100000) = .next t ∧ t.err = 2 :=
  ⟨exists_of_answers (by decide +kernel), exists_of_answers (by decide +kernel), exists_of_answers (by decide +kernel)⟩

/-- Each of the three commands, with a length next to the accepted ones. -/
theorem witness_InvalidFrameHasOneCause :
    (∃ t, execute 0x00000505 State.reset = .next t ∧ t.err = 3) ∧
    (∃ t, execute 0x0000080B State.reset = .next t ∧ t.err = 3) ∧
    ∃ t, execute 0x00000506 (withRaw 0 0x100000 0) = .next t ∧ t.err = 3 :=
  ⟨exists_of_answers (by decide +kernel), exists_of_answers (by decide +kernel), exists_of_answers (by decide +kernel)⟩

/-- A failing CRC_VERIFY, a 6-byte frame and a 7-byte frame at an enabled gate. -/
theorem witness_ChecksumMismatchHasTwoCauses :
    (∃ t, execute 0x00000104 (withBuffer 0xFE 0 false) = .next t ∧ t.err = 4) ∧
    (∃ t, execute 0x00000605 (goodFrame true) = .next t ∧ t.err = 4) ∧
    ∃ t, execute 0x0000070B (badFrame true) = .next t ∧ t.err = 4 :=
  ⟨exists_of_answers (by decide +kernel), exists_of_answers (by decide +kernel), exists_of_answers (by decide +kernel)⟩

theorem witness_IllegalCommandIsRaisedByIllegalWords :
    ∃ t, execute 0x00000705 State.reset = .next t ∧ t.err ≠ 1 := exists_of_answers (by decide +kernel)

/-- A failing UNPACK of a 7-byte frame, and a failing CRC_VERIFY. -/
theorem witness_FailingCommandChangesOnlyStatusAndCrc :
    (∃ t, execute 0x00000705 (badFrame true) = .next t ∧ t.err ≠ 0) ∧
    ∃ t, execute 0x00000704 (badFrame false) = .next t ∧ t.err ≠ 0 :=
  ⟨exists_of_answers (by decide +kernel), exists_of_answers (by decide +kernel)⟩

/-- One event for each part: reset, its release, a read, a write of each kind, a command, an illegal word. -/
theorem witness_FlagsChangeOnlyAsListed :
    (∃ t, hostOp .assertReset { State.reset with rawValid := true } = .next t ∧ t.rawValid = false) ∧
    (∃ t, hostOp .releaseReset { State.reset with rawValid := true } = .next t ∧ t.rawValid = true) ∧
    (∃ t, hostOp (.read (.base 0x08) 4) { State.reset with outValid := true } = .next t ∧ t.outValid = true) ∧
    ((HostAddr.base 0x20).value ≠ Config.base + 0x04 ∧
      ∃ t, hostOp (.write (.base 0x20) 4 0) { State.reset with rawValid := true } = .next t ∧ t.rawValid = false) ∧
    ((HostAddr.base 0x14).value ≠ Config.base + 0x04 ∧
      ∃ t, hostOp (.write (.base 0x14) 4 0) { State.reset with rawValid := true } = .next t ∧ t.rawValid = true) ∧
    (∃ t, execute 0x0000070B (goodFrame true) = .next t ∧ t.outValid = true) ∧
    ∃ t, execute 0x00001005 { State.reset with rawValid := true } = .next t ∧ t.rawValid = true :=
  ⟨exists_of_answers (by decide), exists_of_answers (by decide), exists_of_answers (by decide),
   ⟨by simp [HostAddr.value], exists_of_answers (by decide)⟩, ⟨by simp [HostAddr.value], exists_of_answers (by decide)⟩,
   exists_of_answers (by decide +kernel), exists_of_answers (by decide +kernel)⟩

theorem witness_RegistersAreWrittenOnlyByTheListedCommands :
    ∃ t, exec (.unpackConvert 7) (goodFrame true) = .next t ∧ t.humOut ≠ (goodFrame true).humOut :=
  exists_of_answers (by decide +kernel)

theorem witness_OnlyPackReadsStatByte :
    (∀ len, Instr.unpack 7 ≠ .pack len) ∧ ∃ t, exec (.unpack 7) (goodFrame true) = .next t ∧ t.statByte = 0x1C :=
  ⟨fun _ h => Instr.noConfusion h, exists_of_answers (by decide +kernel)⟩

theorem witness_OnlyTheFrameGateReadsCrcEn :
    (∀ len, Instr.crcVerify 7 ≠ .unpack len) ∧ (∀ len, Instr.crcVerify 7 ≠ .unpackConvert len) ∧
    ∃ t, exec (.crcVerify 7) (badFrame true) = .next t ∧ t.err = 4 :=
  ⟨fun _ h => Instr.noConfusion h, fun _ h => Instr.noConfusion h, exists_of_answers (by decide +kernel)⟩

theorem witness_LastBufferByteIsReadOnlyAtLengthEight :
    (∃ t, exec (.crcBuf 8) (goodFrame true) = .next t ∧ t.err = 0) ∧ Instr.crcVerify 7 ≠ .crcBuf 8 ∧
    Instr.crcVerify 7 ≠ .crcVerify 8 ∧ ∃ t, exec (.crcVerify 7) (goodFrame true) = .next t ∧ t.err = 0 :=
  ⟨exists_of_answers (by decide +kernel), by decide, by decide, exists_of_answers (by decide +kernel)⟩

/-- The end state of program P1 of 95_test_vectors.md section 3: both flags are set. -/
def convertedState : State :=
  { goodFrame true with
    rawValid := true, outValid := true, crc := 0x3A, statByte := 0x1C, humRaw := 0x19999, tempRaw := 0xA6666
    humOutLo := 0x80000000, humOutHi := 0x4023FFF8, tempOutLo := 0xC0000000, tempOutHi := 0x4053FFFE }

theorem convertedState_hum : convertedState.humOut = humidityBits 0x19999 := by decide +kernel

theorem convertedState_temp : convertedState.tempOut = temperatureBits 0xA6666 := by decide +kernel

/-- The invariant holds in a state with both flags set, and a step runs from there. -/
theorem witness_EveryStepKeepsTheInvariant :
    Inv convertedState ∧ ∃ t, step (convertedState.withFetchWord 32 0x00000009) = .next t ∧ t.outValid = false := by
  refine ⟨⟨by decide, fun _ => by decide, fun _ => ?_, fun _ _ => ?_, ?_, ?_, fun h => Bool.noConfusion h⟩,
    exists_of_answers (by decide +kernel)⟩
  · exact ⟨0x19999, 0xA6666, by decide, by decide, convertedState_hum, convertedState_temp⟩
  · exact ⟨convertedState_hum, convertedState_temp⟩
  · exact ⟨0x19999, by decide, convertedState_hum⟩
  · exact ⟨0xA6666, by decide, convertedState_temp⟩

end

end Sys2Proof.Tests
end

section
/-! PROOFS. What each command can come to, said once for each, and what the commands that neither decode
a frame nor convert have in common. -/

namespace Sys2Proof.Machine

/-! ### The commands that always succeed -/

theorem exec_nop (s : State) : exec .nop s = .next { s with err := 0 } := rfl

theorem exec_crcInit (s : State) : exec .crcInit s = .next { s with crc := 0xFF, err := 0 } := rfl

theorem exec_crcFeed (data : Byte) (s : State) :
    exec (.crcFeed data) s = .next { s with crc := crc8Step s.crc data, err := 0 } := rfl

theorem exec_packMeasureCmd (s : State) :
    exec .packMeasureCmd s = .next { s.setCommandFrame 0xAC 0x33 0x00 with err := 0 } := rfl

theorem exec_packInitCmd (s : State) :
    exec .packInitCmd s = .next { s.setCommandFrame 0xBE 0x08 0x00 with err := 0 } := rfl

theorem exec_convHum (s : State) : exec .convHum s = .next { s.convertHum.clearOutValid with err := 0 } := rfl

theorem exec_convTemp (s : State) : exec .convTemp s = .next { s.convertTemp.clearOutValid with err := 0 } := rfl

/-! ### The commands that can fail -/

/-- CRC_BUF takes LEN 0 to 8 (40_checksum.md R55). -/
theorem exec_crcBuf_cases (len : Nat) (s : State) :
    (len ≤ 8 ∧ exec (.crcBuf len) s = .next { s with crc := crc8 (s.bufBytes len), err := 0 }) ∨
    (8 < len ∧ exec (.crcBuf len) s = .next { s with err := 2 }) := by
  by_cases h : len ≤ 8
  · exact .inl ⟨h, by simp [exec, execCrcBuf, crcBufAccepts, h, complete_eq]⟩
  · exact .inr ⟨by omega, by simp [exec, execCrcBuf, crcBufAccepts, h, raiseError_eq, ErrKind.code]⟩

/-- CRC_VERIFY takes LEN 1 to 8, and CRC the checksum even on a mismatch (40_checksum.md R56). -/
theorem exec_crcVerify_cases (len : Nat) (s : State) :
    (1 ≤ len ∧ len ≤ 8 ∧ crc8 (s.bufBytes (len - 1)) = s.buf (Fin.ofNat 8 (len - 1)) ∧
      exec (.crcVerify len) s = .next { s with crc := crc8 (s.bufBytes (len - 1)), err := 0 }) ∨
    (1 ≤ len ∧ len ≤ 8 ∧ crc8 (s.bufBytes (len - 1)) ≠ s.buf (Fin.ofNat 8 (len - 1)) ∧
      exec (.crcVerify len) s = .next { s with crc := crc8 (s.bufBytes (len - 1)), err := 4 }) ∨
    (¬(1 ≤ len ∧ len ≤ 8) ∧ exec (.crcVerify len) s = .next { s with err := 2 }) := by
  by_cases h : 1 ≤ len ∧ len ≤ 8
  · have hlen : crcVerifyAccepts len = true := decide_eq_true h
    obtain ⟨h1, h8⟩ := h
    by_cases hc : crc8 (s.bufBytes (len - 1)) = s.buf (Fin.ofNat 8 (len - 1))
    · exact .inl ⟨h1, h8, hc, by rw [exec, execCrcVerify, if_pos hlen, if_pos hc]; rfl⟩
    · exact .inr (.inl ⟨h1, h8, hc, by rw [exec, execCrcVerify, if_pos hlen, if_neg hc]; rfl⟩)
  · have hlen : ¬crcVerifyAccepts len = true := by simpa [crcVerifyAccepts] using h
    exact .inr (.inr ⟨h, by rw [exec, execCrcVerify, if_neg hlen]; rfl⟩)

/-- CRC_BUF changes CRC and ERR at most. -/
theorem crcBuf_next {len : Nat} {s t : State} (h : exec (.crcBuf len) s = .next t) :
    ∃ c, ∃ e : BitVec 4, e.toNat ≤ 4 ∧ t = { s with crc := c, err := e } := by
  obtain ⟨-, he⟩ | ⟨-, he⟩ := exec_crcBuf_cases len s <;> rw [he] at h <;> cases h
  · exact ⟨_, 0, by decide, rfl⟩
  · exact ⟨_, 2, by decide, rfl⟩

/-- CRC_VERIFY changes CRC and ERR at most. -/
theorem crcVerify_next {len : Nat} {s t : State} (h : exec (.crcVerify len) s = .next t) :
    ∃ c, ∃ e : BitVec 4, e.toNat ≤ 4 ∧ t = { s with crc := c, err := e } := by
  obtain ⟨-, -, -, he⟩ | ⟨-, -, -, he⟩ | ⟨-, he⟩ := exec_crcVerify_cases len s <;> rw [he] at h <;> cases h
  · exact ⟨_, 0, by decide, rfl⟩
  · exact ⟨_, 4, by decide, rfl⟩
  · exact ⟨_, 2, by decide, rfl⟩

/-- PACK checks the length first, then the 20-bit range (41_frame_codec.md R75). -/
theorem exec_pack_cases (len : Nat) (s : State) :
    (len = 6 ∧ (fitsField s.humRaw && fitsField s.tempRaw) = true ∧
      exec (.pack len) s = .next { s.encodeFields s.rawReading with err := 0 }) ∨
    (len = 7 ∧ (fitsField s.humRaw && fitsField s.tempRaw) = true ∧
      exec (.pack len) s = .next { (s.encodeFields s.rawReading).sealFrame with err := 0 }) ∨
    ((len = 6 ∨ len = 7) ∧ (fitsField s.humRaw && fitsField s.tempRaw) = false ∧
      exec (.pack len) s = .next { s with err := 2 }) ∨
    (¬(len = 6 ∨ len = 7) ∧ exec (.pack len) s = .next { s with err := 3 }) := by
  by_cases hl : len = 6 ∨ len = 7
  · cases hf : fitsField s.humRaw && fitsField s.tempRaw with
    | false =>
      refine .inr (.inr (.inl ⟨hl, rfl, ?_⟩))
      rw [exec, execPack, if_pos (by simpa [frameLenAccepts] using hl), hf]; rfl
    | true =>
      rcases hl with rfl | rfl
      · exact .inl ⟨rfl, rfl, by rw [exec, execPack, hf]; rfl⟩
      · exact .inr (.inl ⟨rfl, rfl, by rw [exec, execPack, hf]; rfl⟩)
  · exact .inr (.inr (.inr ⟨hl, by rw [exec, execPack, if_neg (by simpa [frameLenAccepts] using hl)]; rfl⟩))

/-! ### The commands that decode a frame -/

theorem exec_unpack (len : Nat) (s : State) : exec (.unpack len) s = withFrame len s State.flagsUnpacked := rfl

theorem exec_unpackConvert (len : Nat) (s : State) :
    exec (.unpackConvert len) s = withFrame len s fun t => t.convertHum.convertTemp.flagsConverted := rfl

/-- A frame command accepts the frame, or changes only CRC and STATUS and clears both flags (60_exceptions.md R118). -/
theorem withFrame_next {len : Nat} {s t : State} {accept : State → State} (h : withFrame len s accept = .next t) :
    t = { accept ((s.gateCrc len).setReading s.decodeFields) with err := 0 } ∨
    ∃ c, ∃ e : BitVec 4, e ≠ 0 ∧ e.toNat ≤ 4 ∧ t = { s.invalidate with crc := c, err := e } := by
  obtain ⟨-, -, hw⟩ | ⟨-, -, hw⟩ | ⟨-, hw⟩ := withFrame_cases len s accept <;> rw [hw] at h <;> cases h
  · exact .inl rfl
  · exact .inr ⟨(s.gateCrc len).crc, 4, by decide, by decide, rfl⟩
  · exact .inr ⟨s.crc, 3, by decide, by decide, rfl⟩

/-! ### The commands that touch no result -/

/-- The commands that neither decode a frame nor convert. -/
def keepsResults : Instr → Bool
  | .unpack _ | .unpackConvert _ | .convHum | .convTemp => false
  | .nop | .crcInit | .crcFeed _ | .crcBuf _ | .crcVerify _ | .pack _ | .packMeasureCmd | .packInitCmd => true

/-- `encode_fields` writes the buffer and nothing else (41_frame_codec.md R74). -/
theorem State.encodeFields_frame (s : State) (r : Reading) :
    s.encodeFields r = { s with buf0 := (s.encodeFields r).buf0, buf1 := (s.encodeFields r).buf1 } := by
  apply State.ext <;> simp

/-- A command that neither decodes nor converts leaves everything but the buffer, CRC and ERR alone, and
ERR takes a named code (60_exceptions.md R110). -/
theorem exec_of_keepsResults {i : Instr} {s t : State} (hi : keepsResults i = true) (h : exec i s = .next t) :
    ∃ b0 b1 c, ∃ e : BitVec 4, e.toNat ≤ 4 ∧ t = { s with buf0 := b0, buf1 := b1, crc := c, err := e } := by
  cases i with
  | unpack len | unpackConvert len | convHum | convTemp => cases hi
  | nop | crcInit | crcFeed data | packMeasureCmd | packInitCmd => cases h; exact ⟨_, _, _, 0, by decide, rfl⟩
  | crcBuf len =>
    obtain ⟨c, e, he, rfl⟩ := crcBuf_next h
    exact ⟨_, _, c, e, he, rfl⟩
  | crcVerify len =>
    obtain ⟨c, e, he, rfl⟩ := crcVerify_next h
    exact ⟨_, _, c, e, he, rfl⟩
  | pack len =>
    obtain ⟨-, -, he⟩ | ⟨-, -, he⟩ | ⟨-, -, he⟩ | ⟨-, he⟩ := exec_pack_cases len s <;> rw [he] at h <;> cases h
    · rw [State.encodeFields_frame]; exact ⟨_, _, _, 0, by decide, rfl⟩
    · rw [State.sealFrame_eq, State.encodeFields_frame]; exact ⟨_, _, _, 0, by decide, rfl⟩
    · exact ⟨_, _, _, 2, by decide, rfl⟩
    · exact ⟨_, _, _, 3, by decide, rfl⟩

end Sys2Proof.Machine
end

section
/-! PROOFS. The invariant of the machine, kept by every command, every host operation and every step. -/

namespace Sys2Proof.Machine

/-! ### The outputs at reset -/

theorem State.resetRegisters_humOut (s : State) : s.resetRegisters.humOut = humidityBits 0 := by
  have hnum : humidityNum 0 = 0 := rfl
  rw [humidityBits, hnum, toBinary64_zero]
  simp [State.humOut]

/-- +0.0 is the temperature of the raw value 2^18 (42_unit_converter.md R92). -/
theorem State.resetRegisters_tempOut (s : State) : s.resetRegisters.tempOut = temperatureBits 0x40000 := by
  have hnum : temperatureNum 0x40000 = 0 := rfl
  rw [temperatureBits, hnum, toBinary64_zero]
  simp [State.tempOut]

/-! ### What keeps the invariant -/

/-- Out of reset, the invariant asks for no reset values. -/
theorem inReset_of_released {t : State} (hr : t.resetIn = false) : t.resetIn = true → t = t.resetRegisters :=
  fun h => absurd (hr.symm.trans h) Bool.false_ne_true

/-- The invariant does not speak of the host's program. -/
theorem Inv.with_program {s : State} (hs : Inv s) (p : List HostOp) : Inv { s with program := p } where
  errNamed := hs.errNamed
  rawFits := hs.rawFits
  outFits := hs.outFits
  outOfRaw := hs.outOfRaw
  humEncoded := hs.humEncoded
  tempEncoded := hs.tempEncoded
  inReset hr := congrArg (fun u : State => { u with program := p }) (hs.inReset hr)

/-- Out of reset, an update keeps the invariant when ERR takes a named code, the outputs stay, no flag
rises, and RAW_VALID stays up only over unchanged raw registers. -/
theorem Inv.of_outputs_kept {s t : State} (hs : Inv s) (hr : t.resetIn = false) (he : t.err.toNat ≤ 4)
    (hraw : t.rawValid = true → s.rawValid = true ∧ t.humRaw = s.humRaw ∧ t.tempRaw = s.tempRaw)
    (hout : t.outValid = true → s.outValid = true)
    (hhum : t.humOut = s.humOut) (htemp : t.tempOut = s.tempOut) : Inv t where
  errNamed := he
  rawFits h := by
    obtain ⟨h, hh, ht⟩ := hraw h
    rw [hh, ht]; exact hs.rawFits h
  outFits h := by rw [hhum, htemp]; exact hs.outFits (hout h)
  outOfRaw h ho := by
    obtain ⟨h, hh, ht⟩ := hraw h
    rw [hh, ht, hhum, htemp]; exact hs.outOfRaw h (hout ho)
  humEncoded := by rw [hhum]; exact hs.humEncoded
  tempEncoded := by rw [htemp]; exact hs.tempEncoded
  inReset := inReset_of_released hr

/-- Registers at reset meet the invariant, whatever the level of the reset input. -/
theorem inv_resetRegisters (s : State) : Inv s.resetRegisters where
  errNamed := Nat.zero_le 4
  rawFits h := Bool.noConfusion h
  outFits h := Bool.noConfusion h
  outOfRaw h := Bool.noConfusion h
  humEncoded := ⟨0, by decide, s.resetRegisters_humOut⟩
  tempEncoded := ⟨0x40000, by decide, s.resetRegisters_tempOut⟩
  inReset _ := rfl

/-! ### The commands -/

/-- CONV_HUM puts a conversion in HUM_OUT, and clears OUT_VALID (42_unit_converter.md R95). -/
theorem Inv.convHum {s : State} (hs : Inv s) (hr : s.resetIn = false) :
    Inv { s.convertHum.clearOutValid with err := 0 } where
  errNamed := Nat.zero_le 4
  rawFits := hs.rawFits
  outFits h := Bool.noConfusion h
  outOfRaw _ h := Bool.noConfusion h
  humEncoded := ⟨s.humRaw.toNat, s.humRaw.isLt, State.humOut_setHumOut s _⟩
  tempEncoded := hs.tempEncoded
  inReset := inReset_of_released hr

/-- CONV_TEMP puts a conversion in TEMP_OUT, and clears OUT_VALID (42_unit_converter.md R96). -/
theorem Inv.convTemp {s : State} (hs : Inv s) (hr : s.resetIn = false) :
    Inv { s.convertTemp.clearOutValid with err := 0 } where
  errNamed := Nat.zero_le 4
  rawFits := hs.rawFits
  outFits h := Bool.noConfusion h
  outOfRaw _ h := Bool.noConfusion h
  humEncoded := hs.humEncoded
  tempEncoded := ⟨s.tempRaw.toNat, s.tempRaw.isLt, State.tempOut_setTempOut s _⟩
  inReset := inReset_of_released hr

/-- A decoded raw value fits 20 bits in its 32-bit register (41_frame_codec.md R73). -/
theorem setWidth_20_lt (x : BitVec 20) : (x.setWidth 32).toNat < 2 ^ 20 := by
  rw [BitVec.toNat_setWidth_of_le (by decide)]; exact x.isLt

/-- UNPACK of an accepted frame: two new raw values, outputs kept, OUT_VALID cleared (41_frame_codec.md R73). -/
theorem Inv.unpacked {s : State} (hs : Inv s) (hr : s.resetIn = false) (len : Nat) (r : Reading) :
    Inv { ((s.gateCrc len).setReading r).flagsUnpacked with err := 0 } where
  errNamed := Nat.zero_le 4
  rawFits _ := ⟨setWidth_20_lt r.hum, setWidth_20_lt r.temp⟩
  outFits h := Bool.noConfusion h
  outOfRaw _ h := Bool.noConfusion h
  humEncoded := hs.humEncoded
  tempEncoded := hs.tempEncoded
  inReset := inReset_of_released hr

/-- After both conversions of a state with a reading, the outputs are those of the reading. -/
theorem State.outputs_of_reading (s : State) (r : Reading) :
    let t : State := { (s.setReading r).convertHum.convertTemp.flagsConverted with err := 0 }
    t.humOut = humidityBits (r.hum.setWidth 32).toNat ∧ t.tempOut = temperatureBits (r.temp.setWidth 32).toNat :=
  ⟨append_halves _, append_halves _⟩

/-- UNPACK_CONVERT of an accepted frame: two new raw values and their conversions (42_unit_converter.md R97). -/
theorem inv_converted {s : State} (hr : s.resetIn = false) (r : Reading) :
    Inv { (s.setReading r).convertHum.convertTemp.flagsConverted with err := 0 } := by
  obtain ⟨hhum, htemp⟩ := s.outputs_of_reading r
  have hH := setWidth_20_lt r.hum
  have hT := setWidth_20_lt r.temp
  exact
  { errNamed := Nat.zero_le 4
    rawFits := fun _ => ⟨hH, hT⟩
    outFits := fun _ => ⟨_, _, hH, hT, hhum, htemp⟩
    outOfRaw := fun _ _ => ⟨hhum, htemp⟩
    humEncoded := ⟨_, BitVec.isLt _, hhum⟩
    tempEncoded := ⟨_, BitVec.isLt _, htemp⟩
    inReset := inReset_of_released hr }

/-- A failing frame command clears both flags (60_exceptions.md R118). -/
theorem Inv.invalidated {s : State} (hs : Inv s) (hr : s.resetIn = false) (c : Byte) {e : BitVec 4}
    (he : e.toNat ≤ 4) : Inv { s.invalidate with crc := c, err := e } :=
  hs.of_outputs_kept hr he (fun h => Bool.noConfusion h) (fun h => Bool.noConfusion h) rfl rfl

/-- Every command keeps the invariant. -/
theorem Inv.exec {i : Instr} {s t : State} (hs : Inv s) (hr : s.resetIn = false) (h : exec i s = .next t) : Inv t := by
  cases hi : keepsResults i with
  | true =>
    obtain ⟨b0, b1, c, e, he, rfl⟩ := exec_of_keepsResults hi h
    exact hs.of_outputs_kept hr he (fun h => ⟨h, rfl, rfl⟩) id rfl rfl
  | false =>
    cases i with
    | nop | crcInit | crcFeed data | crcBuf len | crcVerify len | pack len | packMeasureCmd | packInitCmd => cases hi
    | convHum => cases h; exact hs.convHum hr
    | convTemp => cases h; exact hs.convTemp hr
    | unpack len =>
      obtain rfl | ⟨c, e, -, he, rfl⟩ := withFrame_next h
      · exact hs.unpacked hr len s.decodeFields
      · exact hs.invalidated hr c he
    | unpackConvert len =>
      rw [exec_unpackConvert] at h
      obtain rfl | ⟨c, e, -, he, rfl⟩ := withFrame_next h
      · exact inv_converted (s := s.gateCrc len) hr s.decodeFields
      · exact hs.invalidated hr c he

/-! ### Host operations and steps -/

/-- Every command word, illegal ones too, keeps the invariant. -/
theorem Inv.execute {w : Word} {s t : State} (hs : Inv s) (hr : s.resetIn = false) (h : execute w s = .next t) :
    Inv t := by
  obtain ⟨i, -, he⟩ | ⟨why, -, he⟩ := execute_cases w s <;> rw [he] at h
  · exact hs.exec hr h
  · cases h
    exact hs.of_outputs_kept hr (by decide : (1#4).toNat ≤ 4) (fun h => ⟨h, rfl, rfl⟩) id rfl rfl

/-- A stored write clears RAW_VALID wherever it changes what the flag speaks of (20_memory.md R30). -/
theorem Inv.store {s : State} (hs : Inv s) (hr : s.resetIn = false) (v : Word) (r : Reg) : Inv (r.store s v) := by
  cases r with
  | cmd | status | crc | humOutLo | humOutHi | tempOutLo | tempOutHi => exact hs
  | ctrl | buf0 | buf1 => exact hs.of_outputs_kept hr hs.errNamed (fun h => ⟨h, rfl, rfl⟩) id rfl rfl
  | statByte | humRaw | tempRaw => exact hs.of_outputs_kept hr hs.errNamed (fun h => Bool.noConfusion h) id rfl rfl

/-- Every operation of the host keeps the invariant. -/
theorem Inv.hostOp {op : HostOp} {s t : State} (hs : Inv s) (h : hostOp op s = .next t) : Inv t := by
  obtain ⟨_, _, _, -, hr, -, rfl⟩ | ⟨_, _, v, -, hr, -, he⟩ | ⟨_, _, v, r, -, hr, -, -, rfl⟩ |
    ⟨_, _, _, -, -, -, rfl⟩ | ⟨-, rfl⟩ | ⟨-, rfl⟩ | ⟨-, rfl⟩ := hostOp_cases h
  · exact hs.of_outputs_kept hr hs.errNamed (fun h => ⟨h, rfl, rfl⟩) id rfl rfl
  · exact hs.execute hr he
  · exact hs.store hr v r
  · exact hs
  · exact inv_resetRegisters s
  · exact inv_resetRegisters { s with resetIn := true }
  · exact hs.of_outputs_kept rfl hs.errNamed (fun h => ⟨h, rfl, rfl⟩) id rfl rfl

/-- Settles O56: the next host operation keeps the invariant, and with none left nothing changes. -/
theorem everyStepKeepsTheInvariant : Obligations.EveryStepKeepsTheInvariant := by
  intro s t hs h
  obtain ⟨-, rfl⟩ | ⟨op, rest, -, hop⟩ := step_cases h
  · exact hs
  · exact (hs.with_program rest).hostOp hop

end Sys2Proof.Machine
end

section
/-! PROOFS. The bytes of the buffer and the words that hold them (10_state.md R18). -/

namespace Sys2Proof.Machine

/-- A byte of the buffer as a base-256 digit of BUF0 or BUF1. -/
theorem State.buf_toNat (s : State) (i : Fin 8) :
    (s.buf i).toNat = (if i.val < 4 then s.buf0 else s.buf1).toNat / 256 ^ (i.val % 4) % 256 := by
  by_cases h : i.val < 4
  · have hi : i.val % 4 = i.val := Nat.mod_eq_of_lt h
    rw [State.buf, if_pos h, if_pos h, byteOf_toNat, hi]
  · have hi : i.val % 4 = i.val - 4 := by omega
    rw [State.buf, if_neg h, if_neg h, byteOf_toNat, hi]

/-- Settles O18, from the digits of a word and the reading of a written byte. -/
theorem bufferBytesAliasTheWords : Obligations.BufferBytesAliasTheWords :=
  fun s i b => ⟨s.buf_toNat i, fun j => s.buf_setBuf i j b, rfl⟩

end Sys2Proof.Machine
end

section
/-! PROOFS. The flags RAW_VALID and OUT_VALID over every event (10_state.md R23). -/

namespace Sys2Proof.Machine

/-! ### The address of an admitted access -/

/-- An admitted access lies at the offset of its slot (20_memory.md R27). -/
theorem admittedSlot_value {addr : HostAddr} {n : Nat} {slot : Slot} (h : admittedSlot addr n = some slot) :
    ∃ off, addr.value = Config.base + off ∧ slot = slotAt off := by
  cases addr with
  | base off =>
    simp only [admittedSlot, HostAddr.offset?] at h
    split at h
    · exact ⟨off, rfl, by cases h; rfl⟩
    · cases h
  | abs a =>
    simp only [admittedSlot, HostAddr.offset?] at h
    by_cases ha : Config.base ≤ a
    · rw [if_pos ha] at h
      simp only at h
      split at h
      · exact ⟨a - Config.base, (Nat.add_sub_cancel' ha).symm, by cases h; rfl⟩
      · cases h
    · rw [if_neg ha] at h; cases h

/-- A register stands at its offset only. -/
theorem slotAt_eq_reg {off : Nat} {r : Reg} (h : slotAt off = .reg r) : off = r.offset := by
  unfold slotAt at h
  split at h <;> cases h <;> rfl

/-- An admitted access to a register is at the register's address. -/
theorem value_of_admittedSlot_reg {addr : HostAddr} {n : Nat} {r : Reg} (h : admittedSlot addr n = some (.reg r)) :
    addr.value = Config.base + r.offset := by
  obtain ⟨off, hv, hs⟩ := admittedSlot_value h
  rw [hv, slotAt_eq_reg hs.symm]

/-- An admitted access to a reserved slot is at no register's address. -/
theorem value_ne_of_admittedSlot_reserved {addr : HostAddr} {n : Nat} (h : admittedSlot addr n = some .reserved)
    (r : Reg) : addr.value ≠ Config.base + r.offset := by
  obtain ⟨off, hv, hs⟩ := admittedSlot_value h
  intro he
  have hoff : off = r.offset := by omega
  rw [hoff, slotAt_offset] at hs
  cases hs

/-! ### The flags after an event -/

/-- The flags after a write that is no command: RAW_VALID falls at STAT_BYTE, HUM_RAW and TEMP_RAW. -/
theorem Reg.store_flags (s : State) (v : Word) (r : Reg) :
    ((r.store s v).rawValid, (r.store s v).outValid) =
      if r.offset ∈ [0x18, 0x1C, 0x20] then (false, s.outValid) else (s.rawValid, s.outValid) := by
  cases r <;> rfl

/-- The flags after a command are those of the table of events. -/
theorem exec_flags {i : Instr} {s t : State} (h : exec i s = .next t) :
    (t.rawValid, t.outValid) = flagsAfterCommand i (t.err == 0) s := by
  cases hi : keepsResults i with
  | true =>
    obtain ⟨b0, b1, c, e, -, rfl⟩ := exec_of_keepsResults hi h
    cases i with
    | unpack len | unpackConvert len | convHum | convTemp => cases hi
    | nop | crcInit | crcFeed data | crcBuf len | crcVerify len | pack len | packMeasureCmd | packInitCmd => rfl
  | false =>
    cases i with
    | nop | crcInit | crcFeed data | crcBuf len | crcVerify len | pack len | packMeasureCmd | packInitCmd => cases hi
    | convHum | convTemp => cases h; rfl
    | unpack len =>
      rw [exec_unpack] at h
      obtain rfl | ⟨c, e, he, -, rfl⟩ := withFrame_next h
      · rfl
      · simpa [flagsAfterCommand] using he
    | unpackConvert len =>
      rw [exec_unpackConvert] at h
      obtain rfl | ⟨c, e, he, -, rfl⟩ := withFrame_next h
      · rfl
      · simpa [flagsAfterCommand] using he

/-- The flags after a host write that is no command. -/
theorem write_flags {addr : HostAddr} {n : Nat} {v : Word} {s t : State} (h : hostOp (.write addr n v) s = .next t)
    (hcmd : addr.value ≠ Config.base + 0x04) :
    (t.rawValid, t.outValid) =
      if addr.value ∈ [Config.base + 0x18, Config.base + 0x1C, Config.base + 0x20] then (false, s.outValid)
      else (s.rawValid, s.outValid) := by
  obtain ⟨_, _, _, ho, -⟩ | ⟨_, _, _, ho, -, hslot, -⟩ | ⟨_, _, _, r, ho, -, hslot, -, rfl⟩ |
    ⟨_, _, _, ho, -, hslot, rfl⟩ | ⟨ho, -⟩ | ⟨ho, -⟩ | ⟨ho, -⟩ := hostOp_cases h <;> cases ho
  · exact absurd (value_of_admittedSlot_reg hslot) hcmd
  · rw [Reg.store_flags, value_of_admittedSlot_reg hslot]
    simp
  · have hstat : addr.value ≠ Config.base + 0x18 := value_ne_of_admittedSlot_reserved hslot .statByte
    have hhum : addr.value ≠ Config.base + 0x1C := value_ne_of_admittedSlot_reserved hslot .humRaw
    have htemp : addr.value ≠ Config.base + 0x20 := value_ne_of_admittedSlot_reserved hslot .tempRaw
    simp [hstat, hhum, htemp]

/-- Settles O50, event by event. -/
theorem flagsChangeOnlyAsListed : Obligations.FlagsChangeOnlyAsListed := by
  refine ⟨?reset, ?release, ?read, ?write, ?command⟩
  case reset => rintro s t (h | h) <;> cases h <;> rfl
  case release => intro s t h; cases h; rfl
  case read =>
    intro addr n s t h
    obtain ⟨_, _, _, -, -, -, rfl⟩ | ⟨_, _, _, ho, -⟩ | ⟨_, _, _, _, ho, -⟩ | ⟨_, _, _, ho, -⟩ |
      ⟨ho, -⟩ | ⟨ho, -⟩ | ⟨ho, -⟩ := hostOp_cases h
    · rfl
    all_goals cases ho
  case write => exact fun addr n v s t h hcmd => write_flags h hcmd
  case command =>
    intro w s t h
    obtain ⟨i, hd, he⟩ | ⟨why, hd, he⟩ := execute_cases w s <;> rw [he] at h
    · refine ⟨fun j hj => ?_, fun _ hj => (nomatch hd.symm.trans hj)⟩
      rw [hd] at hj
      cases hj
      exact exec_flags h
    · refine ⟨fun _ hj => (nomatch hd.symm.trans hj), fun _ _ => ?_⟩
      cases h
      rfl

end Sys2Proof.Machine
end

section
/-! PROOFS. Which command writes which register (10_state.md R14). -/

namespace Sys2Proof.Machine

theorem fieldOp_commandWord (op len : BitVec 4) (data : Byte) : fieldOp (commandWord op len data) = op :=
  BitVec.extractLsb'_append_eq_right

/-- OP of a command's word is its row of 30_encoding.md R42. -/
theorem fieldOp_encode (i : Instr) : (fieldOp (encode i)).toNat = (commandFields i).1 := by
  cases i <;> simp [encode, commandFields, fieldOp_commandWord]

/-- A command frame lies in BUF0 (41_frame_codec.md R77, R78). -/
@[simp] theorem State.setCommandFrame_buf1 (s : State) (b0 b1 b2 : Byte) :
    (s.setCommandFrame b0 b1 b2).buf1 = s.buf1 := rfl

/-- Settles O51: each command's next state differs from the start in the registers of its row only. -/
theorem registersAreWrittenOnlyByTheListedCommands : Obligations.RegistersAreWrittenOnlyByTheListedCommands := by
  intro i s t h
  rw [fieldOp_encode]
  cases i with
  | nop | crcInit | crcFeed data | packMeasureCmd | packInitCmd | convHum | convTemp =>
    cases h
    simp [commandFields, State.humOut, State.tempOut]
  | crcBuf len =>
    obtain ⟨c, e, -, rfl⟩ := crcBuf_next h
    simp [commandFields, State.humOut, State.tempOut]
  | crcVerify len =>
    obtain ⟨c, e, -, rfl⟩ := crcVerify_next h
    simp [commandFields, State.humOut, State.tempOut]
  | pack len =>
    obtain ⟨b0, b1, c, e, -, rfl⟩ := exec_of_keepsResults rfl h
    simp [commandFields, State.humOut, State.tempOut]
  | unpack len =>
    obtain rfl | ⟨c, e, -, -, rfl⟩ := withFrame_next h <;> simp [commandFields, State.humOut, State.tempOut]
  | unpackConvert len =>
    rw [exec_unpackConvert] at h
    obtain rfl | ⟨c, e, -, -, rfl⟩ := withFrame_next h <;> simp [commandFields, State.humOut, State.tempOut]

end Sys2Proof.Machine
end

section
/-! PROOFS. What a command does not read: CRC_EN (10_state.md R16) and buf[7] (R18). An update of the
state is unseen by a command when it may be made before or after the command, with one result. -/

namespace Sys2Proof.Machine

/-- The outcome with `f` applied to its next state. -/
def mapNext (f : State → State) : Host.Outcome State Fault Refusal → Host.Outcome State Fault Refusal
  | .next t => .next (f t)
  | .fault r => .fault r
  | .refused r => .refused r

/-! ### Updates a command that can fail does not see -/

/-- The update neither reads nor writes CRC and ERR. -/
structure PassesCrcAndErr (f : State → State) : Prop where
  crc : ∀ s c, f { s with crc := c } = { f s with crc := c }
  err : ∀ s e, f { s with err := e } = { f s with err := e }

section

variable {f : State → State} (hf : PassesCrcAndErr f) (s : State)
include hf

theorem complete_unseen : complete (f s) = mapNext f (complete s) :=
  congrArg Host.Outcome.next (hf.err s errOk).symm

theorem raiseError_unseen (e : ErrKind) : raiseError e (f s) = mapNext f (raiseError e s) :=
  congrArg Host.Outcome.next (hf.err s e.code).symm

/-- CRC_BUF reads buf[0 .. LEN-1], for an accepted LEN (40_checksum.md R55). -/
theorem exec_crcBuf_unseen (len : Nat) (hb : len ≤ 8 → (f s).bufBytes len = s.bufBytes len) :
    exec (.crcBuf len) (f s) = mapNext f (exec (.crcBuf len) s) := by
  simp only [exec, execCrcBuf, crcBufAccepts, decide_eq_true_eq]
  split
  · next h => rw [hb h, ← hf.crc, complete_unseen hf]
  · exact raiseError_unseen hf s _

/-- CRC_VERIFY reads buf[0 .. LEN-1], for an accepted LEN (40_checksum.md R56). -/
theorem exec_crcVerify_unseen (len : Nat) (hb : len ≤ 8 → (f s).bufBytes (len - 1) = s.bufBytes (len - 1))
    (hlast : 1 ≤ len → len ≤ 8 → (f s).buf (Fin.ofNat 8 (len - 1)) = s.buf (Fin.ofNat 8 (len - 1))) :
    exec (.crcVerify len) (f s) = mapNext f (exec (.crcVerify len) s) := by
  simp only [exec, execCrcVerify, crcVerifyAccepts, decide_eq_true_eq]
  split
  · next h =>
    rw [hb h.2, hlast h.1 h.2, ← hf.crc]
    split
    · exact complete_unseen hf _
    · exact raiseError_unseen hf _ _
  · exact raiseError_unseen hf s _

/-- PACK reads STAT_BYTE, HUM_RAW and TEMP_RAW, and the bytes of the frame it writes (41_frame_codec.md R75). -/
theorem exec_pack_unseen (len : Nat) (hraw : (f s).humRaw = s.humRaw ∧ (f s).tempRaw = s.tempRaw)
    (hreading : (f s).rawReading = s.rawReading) (henc : ∀ r, (f s).encodeFields r = f (s.encodeFields r))
    (hseal : ∀ u, (f u).sealFrame = f u.sealFrame) :
    exec (.pack len) (f s) = mapNext f (exec (.pack len) s) := by
  simp only [exec, execPack]
  rw [hraw.1, hraw.2, hreading, henc, hseal, ← apply_ite f]
  split
  · split
    · exact complete_unseen hf _
    · exact raiseError_unseen hf s _
  · exact raiseError_unseen hf s _

end

/-! ### CRC_EN -/

/-- The state with CTRL.CRC_EN at the given value. -/
def State.withCrcEn (en : Bool) (s : State) : State := { s with crcEn := en }

theorem withCrcEn_passesCrcAndErr (en : Bool) : PassesCrcAndErr (State.withCrcEn en) where
  crc _ _ := rfl
  err _ _ := rfl

/-- The commands without a frame gate do not see CRC_EN (40_checksum.md R56, R57). -/
theorem exec_withCrcEn {i : Instr} (en : Bool) (s : State) (hu : ∀ len, i ≠ .unpack len)
    (hc : ∀ len, i ≠ .unpackConvert len) :
    exec i (s.withCrcEn en) = mapNext (State.withCrcEn en) (exec i s) := by
  have hf := withCrcEn_passesCrcAndErr en
  cases i with
  | unpack len => exact absurd rfl (hu len)
  | unpackConvert len => exact absurd rfl (hc len)
  | nop | crcInit | crcFeed data | packMeasureCmd | packInitCmd | convHum | convTemp => rfl
  | crcBuf len => exact exec_crcBuf_unseen hf s len fun _ => rfl
  | crcVerify len => exact exec_crcVerify_unseen hf s len (fun _ => rfl) fun _ _ => rfl
  | pack len => exact exec_pack_unseen hf s len ⟨rfl, rfl⟩ rfl (fun _ => rfl) fun _ => rfl

/-- Settles O53: setting CRC_EN before such a command or after it is the same. -/
theorem onlyTheFrameGateReadsCrcEn : Obligations.OnlyTheFrameGateReadsCrcEn := by
  intro i s t en hu hc h
  have hcomm := exec_withCrcEn en s hu hc
  rw [h] at hcomm
  exact hcomm

/-! ### buf[7] -/

/-- Writing a byte with what it holds changes nothing. -/
theorem State.setBuf_self (s : State) (i : Fin 8) : s.setBuf i (s.buf i) = s := by
  refine State.ext_buf (fun j => ?_) rfl
  rw [State.buf_setBuf]
  split
  · next h => rw [h]
  · rfl

/-- Writes of two different bytes of the buffer commute. -/
theorem State.setBuf_comm (s : State) {i j : Fin 8} (h : i ≠ j) (a b : Byte) :
    (s.setBuf i a).setBuf j b = (s.setBuf j b).setBuf i a := by
  refine State.ext_buf (fun k => ?_) rfl
  simp only [State.buf_setBuf]
  by_cases hi : k = i
  · subst hi; simp [h]
  · simp [hi]

/-- The state with buf[7] at the given value. -/
def State.withLastByte (b : Byte) (s : State) : State := s.setBuf 7 b

theorem withLastByte_passesCrcAndErr (b : Byte) : PassesCrcAndErr (State.withLastByte b) where
  crc _ _ := rfl
  err _ _ := rfl

section

variable (b : Byte) (s : State)

theorem State.buf_withLastByte {i : Fin 8} (h : i.val < 7) : (s.withLastByte b).buf i = s.buf i :=
  s.buf_setBuf_ne b (by rintro rfl; exact absurd h (by decide))

theorem State.bufBytes_withLastByte {n : Nat} (h : n ≤ 7) : (s.withLastByte b).bufBytes n = s.bufBytes n :=
  State.bufBytes_congr (by omega) fun _ hi => s.buf_withLastByte b (by omega)

theorem State.setBuf_withLastByte {i : Fin 8} (h : i ≠ 7) (a : Byte) :
    (s.withLastByte b).setBuf i a = (s.setBuf i a).withLastByte b :=
  s.setBuf_comm h.symm b a

theorem State.encodeFields_withLastByte (r : Reading) :
    (s.withLastByte b).encodeFields r = (s.encodeFields r).withLastByte b := by
  simp [State.encodeFields, State.setBuf_withLastByte]

theorem State.sealFrame_withLastByte : (s.withLastByte b).sealFrame = s.sealFrame.withLastByte b := by
  rw [State.sealFrame_eq, s.bufBytes_withLastByte b (by decide), s.setBuf_withLastByte b (by decide)]
  rfl

theorem State.setCommandFrame_withLastByte (b0 b1 b2 : Byte) :
    (s.withLastByte b).setCommandFrame b0 b1 b2 = (s.setCommandFrame b0 b1 b2).withLastByte b := by
  simp [State.setCommandFrame, State.setBuf_withLastByte]

theorem State.gateCrc_withLastByte (n : Nat) : (s.withLastByte b).gateCrc n = (s.gateCrc n).withLastByte b := by
  rw [State.gateCrc, s.bufBytes_withLastByte b (by decide)]
  rfl

/-- The frame gate and the fields stop at byte 6 (40_checksum.md R57, 41_frame_codec.md R71). -/
theorem withFrame_withLastByte (len : Nat) {accept : State → State}
    (ha : ∀ u : State, accept (u.withLastByte b) = (accept u).withLastByte b) :
    withFrame len (s.withLastByte b) accept = mapNext (State.withLastByte b) (withFrame len s accept) := by
  have hf := withLastByte_passesCrcAndErr b
  have hpass : ((s.gateCrc len).withLastByte b).gatePasses len = (s.gateCrc len).gatePasses len := by
    rw [State.gatePasses, State.buf_withLastByte b _ (by decide)]
    rfl
  have hfields : (s.withLastByte b).decodeFields = s.decodeFields :=
    State.decodeFields_congr fun i hi => s.buf_withLastByte b (by omega)
  unfold withFrame
  rw [State.gateCrc_withLastByte, hpass, hfields]
  split
  · split
    · rw [← complete_unseen hf, ← ha]; rfl
    · exact raiseError_unseen hf (s.gateCrc len).invalidate _
  · exact raiseError_unseen hf s.invalidate _

end

/-- The commands other than CRC_BUF 8 and CRC_VERIFY 8 do not see buf[7] (10_state.md R18). -/
theorem exec_withLastByte {i : Instr} (b : Byte) (s : State) (hbuf : i ≠ .crcBuf 8) (hver : i ≠ .crcVerify 8) :
    exec i (s.withLastByte b) = mapNext (State.withLastByte b) (exec i s) := by
  have hf := withLastByte_passesCrcAndErr b
  cases i with
  | nop | crcInit | crcFeed data | convHum | convTemp => rfl
  | packMeasureCmd =>
    rw [exec_packMeasureCmd, exec_packMeasureCmd, State.setCommandFrame_withLastByte]
    rfl
  | packInitCmd =>
    rw [exec_packInitCmd, exec_packInitCmd, State.setCommandFrame_withLastByte]
    rfl
  | crcBuf len =>
    have hne : len ≠ 8 := fun h => hbuf (h ▸ rfl)
    exact exec_crcBuf_unseen hf s len fun _ => s.bufBytes_withLastByte b (by omega)
  | crcVerify len =>
    have hne : len ≠ 8 := fun h => hver (h ▸ rfl)
    refine exec_crcVerify_unseen hf s len (fun _ => s.bufBytes_withLastByte b (by omega)) fun _ _ =>
      s.buf_withLastByte b ?_
    simp only [Fin.ofNat]
    omega
  | pack len =>
    exact exec_pack_unseen hf s len ⟨rfl, rfl⟩ rfl (s.encodeFields_withLastByte b) fun u =>
      u.sealFrame_withLastByte b
  | unpack len => exact withFrame_withLastByte b s len fun _ => rfl
  | unpackConvert len =>
    rw [exec_unpackConvert, exec_unpackConvert]
    exact withFrame_withLastByte b s len fun _ => rfl

/-- No command writes buf[7] (10_state.md R18). -/
theorem exec_keeps_lastByte {i : Instr} {s t : State} (h : exec i s = .next t) : t.buf 7 = s.buf 7 := by
  by_cases hbuf : i = .crcBuf 8
  · subst hbuf
    obtain ⟨c, e, -, rfl⟩ := crcBuf_next h
    exact State.buf_with_crc_err s 7 c e
  by_cases hver : i = .crcVerify 8
  · subst hver
    obtain ⟨c, e, -, rfl⟩ := crcVerify_next h
    exact State.buf_with_crc_err s 7 c e
  -- Writing buf[7] with what it holds before the command is writing that byte after it.
  have hcomm := exec_withLastByte (s.buf 7) s hbuf hver
  rw [State.withLastByte, s.setBuf_self, h] at hcomm
  have ht : t = t.setBuf 7 (s.buf 7) := Host.Outcome.next.inj hcomm
  rw [ht, State.buf_setBuf_same]

/-- Settles O54: buf[7] may be written before such a command or after it, and no command writes it. -/
theorem lastBufferByteIsReadOnlyAtLengthEight : Obligations.LastBufferByteIsReadOnlyAtLengthEight := by
  intro i s t h
  refine ⟨exec_keeps_lastByte h, fun hbuf hver b => ?_⟩
  have hcomm := exec_withLastByte b s hbuf hver
  rw [h] at hcomm
  exact hcomm

end Sys2Proof.Machine
end

section
/-! PROOFS. Which accesses are admitted, and the fault of one that is not (20_memory.md R27, R28). -/

namespace Sys2Proof.Machine

/-! ### The address of an access and its offset in the window -/

/-- BASE is a multiple of 4, for every value of the open parameter (00_scope.md R6). -/
theorem base_mod_four : Config.base % 4 = 0 := by
  unfold Config.base
  omega

/-- Both spellings of an address from BASE on have its offset (20_memory.md R27). -/
theorem HostAddr.offset?_of_value {addr : HostAddr} {off : Nat} (h : addr.value = Config.base + off) :
    addr.offset? = some off := by
  cases addr with
  | base o => exact congrArg some (Nat.add_left_cancel h)
  | abs a =>
    change a = Config.base + off at h
    rw [HostAddr.offset?, if_pos (by omega), h, Nat.add_sub_cancel_left]

/-- An address below BASE has no offset. -/
theorem HostAddr.offset?_of_value_lt {addr : HostAddr} (h : addr.value < Config.base) : addr.offset? = none := by
  cases addr with
  | base o => exact absurd h (Nat.not_lt.mpr (Nat.le_add_right _ _))
  | abs a => exact if_neg (Nat.not_le.mpr h)

/-- R27 for an address written as BASE + off: BASE drops out of the condition. -/
theorem admitted_iff_of_value {addr : HostAddr} {off : Nat} (n : Nat) (h : addr.value = Config.base + off) :
    Admitted addr n ↔ n = 4 ∧ off % 4 = 0 ∧ off ≤ 0x3C := by
  have := base_mod_four
  rw [Admitted, h]
  omega

theorem admittedSlot_of_value {addr : HostAddr} {off : Nat} (n : Nat) (h : addr.value = Config.base + off) :
    admittedSlot addr n = if n = 4 ∧ off % 4 = 0 ∧ off ≤ 0x3C then some (slotAt off) else none := by
  rw [admittedSlot, HostAddr.offset?_of_value h]

/-! ### Admission as the model decides it -/

theorem admittedSlot_of_admitted {addr : HostAddr} {n : Nat} (h : Admitted addr n) :
    admittedSlot addr n = some (slotAt (addr.value - Config.base)) := by
  have ⟨_, _, hle, _⟩ := h
  have hv : addr.value = Config.base + (addr.value - Config.base) := (Nat.add_sub_cancel' hle).symm
  rw [admittedSlot_of_value n hv, if_pos ((admitted_iff_of_value n hv).mp h)]

theorem admittedSlot_of_not_admitted {addr : HostAddr} {n : Nat} (h : ¬Admitted addr n) :
    admittedSlot addr n = none := by
  by_cases hlt : addr.value < Config.base
  · rw [admittedSlot, HostAddr.offset?_of_value_lt hlt]
  · have hv : addr.value = Config.base + (addr.value - Config.base) := by omega
    rw [admittedSlot_of_value n hv, if_neg ((admitted_iff_of_value n hv).not.mp h)]

/-- Settles O9: below BASE no access is admitted, and from BASE on both conditions are about the offset. -/
theorem admittedIsFourBytesAlignedInWindow : Obligations.AdmittedIsFourBytesAlignedInWindow :=
  fun _ _ => ⟨admittedSlot_of_admitted, admittedSlot_of_not_admitted⟩

theorem admitted_of_admittedSlot {addr : HostAddr} {n : Nat} {slot : Slot} (h : admittedSlot addr n = some slot) :
    Admitted addr n := by
  by_contra hn
  cases h.symm.trans (admittedSlot_of_not_admitted hn)

/-! ### The fault of a refused access -/

theorem step_of_program {s : State} {op : HostOp} {rest : List HostOp} (h : s.program = op :: rest) :
    step s = hostOp op { s with program := rest } := by
  rw [step, h]

theorem memRead_of_not_admitted {addr : HostAddr} {n : Nat} (s : State) (h : ¬Admitted addr n) :
    memRead addr n s = .fault (if s.resetIn then .accessInReset else .notAdmitted) := by
  rw [memRead, admittedSlot_of_not_admitted h]
  exact (apply_ite Host.Outcome.fault _ _ _).symm

theorem memWrite_of_not_admitted {addr : HostAddr} {n : Nat} (v : Word) (s : State) (h : ¬Admitted addr n) :
    memWrite addr n v s = .fault (if s.resetIn then .accessInReset else .notAdmitted) := by
  rw [memWrite, admittedSlot_of_not_admitted h]
  exact (apply_ite Host.Outcome.fault _ _ _).symm

/-- Settles O10: the step is the access, and no slot is found for it. -/
theorem notAdmittedAccessFaults : Obligations.NotAdmittedAccessFaults :=
  fun s _ _ v rest h =>
    ⟨memRead_of_not_admitted { s with program := rest } h, memWrite_of_not_admitted v { s with program := rest } h⟩

end Sys2Proof.Machine
end

section
/-! PROOFS. What an admitted access does, slot by slot, and what it does when it is made again
(20_memory.md R29, R30, R33). -/

namespace Sys2Proof.Machine

/-! ### Register words as numbers -/

theorem State.ctrlWord_eq (s : State) : s.ctrlWord = if s.crcEn then 1 else 0 := by
  rw [State.ctrlWord]
  cases s.crcEn <;> rfl

/-- The fields of STATUS as one number (10_state.md R19). -/
theorem statusFields_append : ∀ (out raw : Bool) (err : BitVec 4),
    0#26 ++ BitVec.ofBool out ++ BitVec.ofBool raw ++ err =
      BitVec.ofNat 32 (err.toNat + 16 * raw.toNat + 32 * out.toNat) := by
  decide

theorem State.statusWord_eq (s : State) :
    s.statusWord = BitVec.ofNat 32 (s.err.toNat + 16 * s.rawValid.toNat + 32 * s.outValid.toNat) :=
  statusFields_append s.outValid s.rawValid s.err

theorem State.crcWord_eq (s : State) : s.crcWord = BitVec.ofNat 32 s.crc.toNat := (BitVec.ofNat_toNat ..).symm

theorem State.statByteWord_eq (s : State) : s.statByteWord = BitVec.ofNat 32 s.statByte.toNat :=
  (BitVec.ofNat_toNat ..).symm

/-- Bit 0 of a written word is its parity. -/
theorem getElem_zero_eq_parity (v : Word) : v[0] = decide (v.toNat % 2 = 1) := by
  rw [BitVec.getElem_eq_testBit_toNat, Nat.testBit_zero]

/-- The low byte of a written word is its value modulo 256. -/
theorem lowByte_eq_ofNat (v : Word) : v.extractLsb' 0 8 = BitVec.ofNat 8 v.toNat := by
  rw [BitVec.ofNat_toNat, BitVec.setWidth_eq_extractLsb' (by decide)]

/-! ### Slots and the tables -/

/-- No slot holds anything of the host's side. -/
theorem Slot.read_with_host (slot : Slot) (s : State) (p : List HostOp) (rs : List Word) :
    slot.read { s with program := p, responses := rs } = slot.read s := by
  cases slot with
  | reserved => rfl
  | reg r => cases r <;> rfl

/-- An offset of the window leads an access of 4 bytes to its slot. -/
theorem admittedSlot_of_offset {addr : HostAddr} {off : Nat} (hv : addr.value = Config.base + off)
    (hw : off % 4 = 0 ∧ off ≤ 0x3C) : admittedSlot addr 4 = some (slotAt off) := by
  rw [admittedSlot_of_value 4 hv, if_pos ⟨rfl, hw⟩]

theorem offset_of_mem_readTable : ∀ row ∈ readTable, row.1 % 4 = 0 ∧ row.1 ≤ 0x3C := by
  simp [readTable]

theorem offset_of_mem_writeTable : ∀ row ∈ writeTable, row.1 % 4 = 0 ∧ row.1 ≤ 0x3C := by
  simp [writeTable]

/-- The slot at each offset reads as its row of 20_memory.md R29. -/
theorem read_slotAt_of_mem_readTable (s : State) : ∀ row ∈ readTable, (slotAt row.1).read s = row.2 s := by
  simp [readTable, slotAt, Slot.read, Reg.read, State.ctrlWord_eq, State.statusWord_eq, State.crcWord_eq,
    State.statByteWord_eq]

/-- A write to the slot at each offset other than CMD's does as its row of 20_memory.md R30. -/
theorem write_slotAt_of_mem_writeTable (s : State) (v : Word) :
    ∀ row ∈ writeTable, (slotAt row.1).write s v = .next (row.2 s v) := by
  simp [writeTable, slotAt, Slot.write, Reg.store, State.clearRawValid, getElem_zero_eq_parity, lowByte_eq_ofNat]

/-! ### One access -/

/-- Settles O11: the read is served by the slot at its offset, which reads as its row. -/
theorem readReturnsTheSlotWord : Obligations.ReadReturnsTheSlotWord := by
  intro row hrow s addr rest hr hp hv
  have hs := admittedSlot_of_offset hv (offset_of_mem_readTable row hrow)
  have hread : (slotAt row.1).read { s with program := rest } = row.2 s :=
    ((slotAt row.1).read_with_host s rest s.responses).trans (read_slotAt_of_mem_readTable s row hrow)
  rw [step_of_program hp, hostOp, memRead_admitted (s := { s with program := rest }) hr hs, hread]

theorem step_write_of_offset {s : State} {addr : HostAddr} {v : Word} {rest : List HostOp} {off : Nat}
    (hr : s.resetIn = false) (hp : s.program = .write addr 4 v :: rest) (hv : addr.value = Config.base + off)
    (hw : off % 4 = 0 ∧ off ≤ 0x3C) : step s = (slotAt off).write { s with program := rest } v := by
  rw [step_of_program hp]
  exact memWrite_admitted v hr (admittedSlot_of_offset hv hw)

/-- Settles O12: the write goes to the slot at its offset, which does as its row, or executes at CMD. -/
theorem writeDoesTheSlotsCase : Obligations.WriteDoesTheSlotsCase := by
  refine ⟨fun row hrow s addr v rest hr hp hv => ?_, fun s addr v rest hr hp hv => ?_⟩
  · rw [step_write_of_offset hr hp hv (offset_of_mem_writeTable row hrow)]
    exact write_slotAt_of_mem_writeTable _ v row hrow
  · exact step_write_of_offset hr hp hv (by decide)

/-! ### The same access again -/

theorem Reg.store_store (s : State) (v : Word) (r : Reg) : r.store (r.store s v) v = r.store s v := by
  cases r <;> rfl

@[simp] theorem Reg.store_resetIn (s : State) (v : Word) (r : Reg) : (r.store s v).resetIn = s.resetIn := by
  cases r <;> rfl

/-- A served read appends its slot's word to the responses. -/
theorem hostOp_read_next {addr : HostAddr} {n : Nat} {s t : State} (h : hostOp (.read addr n) s = .next t) :
    ∃ slot, s.resetIn = false ∧ admittedSlot addr n = some slot ∧
      t = { s with responses := s.responses ++ [slot.read s] } := by
  obtain ⟨_, _, slot, ho, hr, hs, rfl⟩ | ⟨_, _, _, ho, -⟩ | ⟨_, _, _, _, ho, -⟩ | ⟨_, _, _, ho, -⟩ |
    ⟨ho, -⟩ | ⟨ho, -⟩ | ⟨ho, -⟩ := hostOp_cases h <;> cases ho
  exact ⟨slot, hr, hs, rfl⟩

/-- A served write is taken by its slot. -/
theorem hostOp_write_next {addr : HostAddr} {n : Nat} {v : Word} {s t : State}
    (h : hostOp (.write addr n v) s = .next t) :
    s.resetIn = false ∧
      ((admittedSlot addr n = some (.reg .cmd) ∧ execute v s = .next t) ∨
       (∃ r, admittedSlot addr n = some (.reg r) ∧ r ≠ .cmd ∧ t = r.store s v) ∨
       (admittedSlot addr n = some .reserved ∧ t = s)) := by
  obtain ⟨_, _, _, ho, -⟩ | ⟨_, _, _, ho, hr, hs, he⟩ | ⟨_, _, _, r, ho, hr, hs, hc, rfl⟩ |
    ⟨_, _, _, ho, hr, hs, rfl⟩ | ⟨ho, -⟩ | ⟨ho, -⟩ | ⟨ho, -⟩ := hostOp_cases h <;> cases ho
  · exact ⟨hr, .inl ⟨hs, he⟩⟩
  · exact ⟨hr, .inr (.inl ⟨r, hs, hc, rfl⟩)⟩
  · exact ⟨hr, .inr (.inr ⟨hs, rfl⟩)⟩

/-- Settles O13: storing a value twice is storing it once, and a slot does not see the responses. -/
theorem accessesButCommandsAreIdempotent : Obligations.AccessesButCommandsAreIdempotent := by
  refine fun addr n v s t => ⟨fun hcmd h => ?write, fun h => ?read⟩
  case write =>
    obtain ⟨hr, ⟨hs, -⟩ | ⟨r, hs, hc, rfl⟩ | ⟨-, rfl⟩⟩ := hostOp_write_next h
    · exact absurd (value_of_admittedSlot_reg hs) hcmd
    · rw [hostOp, memWrite_admitted v ((r.store_resetIn s v).trans hr) hs, Slot.write_reg _ v hc, Reg.store_store]
    · exact h
  case read =>
    obtain ⟨slot, hr, hs, rfl⟩ := hostOp_read_next h
    refine ⟨slot.read s, rfl, ?_⟩
    have hread : slot.read { s with responses := s.responses ++ [slot.read s] } = slot.read s :=
      slot.read_with_host s s.program _
    have hagain := memRead_admitted (s := { s with responses := s.responses ++ [slot.read s] }) hr hs
    rwa [hread] at hagain

end Sys2Proof.Machine
end

section
/-! PROOFS. The run of a host program: when it ends in a state, and the steps that make it
(20_memory.md R28, R34; 70_reset_and_hazards.md R140, R148). -/

namespace Sys2Proof.Machine

/-! ### Commands always complete -/

theorem withFrame_completes (len : Nat) (s : State) (accept : State → State) :
    ∃ t, withFrame len s accept = .next t := by
  obtain ⟨-, -, he⟩ | ⟨-, -, he⟩ | ⟨-, he⟩ := withFrame_cases len s accept <;> exact ⟨_, he⟩

/-- No command faults (43_control.md R100, 60_exceptions.md R117). -/
theorem exec_completes (i : Instr) (s : State) : ∃ t, exec i s = .next t := by
  cases i with
  | nop | crcInit | crcFeed data | packMeasureCmd | packInitCmd | convHum | convTemp => exact ⟨_, rfl⟩
  | crcBuf len => obtain ⟨-, he⟩ | ⟨-, he⟩ := exec_crcBuf_cases len s <;> exact ⟨_, he⟩
  | crcVerify len =>
    obtain ⟨-, -, -, he⟩ | ⟨-, -, -, he⟩ | ⟨-, he⟩ := exec_crcVerify_cases len s <;> exact ⟨_, he⟩
  | pack len =>
    obtain ⟨-, -, he⟩ | ⟨-, -, he⟩ | ⟨-, -, he⟩ | ⟨-, he⟩ := exec_pack_cases len s <;> exact ⟨_, he⟩
  | unpack len => exact withFrame_completes len s State.flagsUnpacked
  | unpackConvert len => rw [exec_unpackConvert]; exact withFrame_completes len s _

theorem execute_completes (w : Word) (s : State) : ∃ t, execute w s = .next t := by
  obtain ⟨i, -, he⟩ | ⟨why, -, he⟩ := execute_cases w s
  · rw [he]; exact exec_completes i s
  · exact ⟨_, he⟩

/-- No command touches the reset input. -/
theorem execute_resetIn {w : Word} {s t : State} (h : execute w s = .next t) : t.resetIn = s.resetIn := by
  obtain ⟨i, -, he⟩ | ⟨why, -, he⟩ := execute_cases w s <;> rw [he] at h
  · obtain ⟨-, hr, -⟩ := registersAreWrittenOnlyByTheListedCommands i s t h
    exact hr
  · cases h; rfl

/-! ### When an access is served -/

theorem hostOp_read_served_iff (addr : HostAddr) (n : Nat) (s : State) :
    (∃ t, hostOp (.read addr n) s = .next t) ↔ s.resetIn = false ∧ Admitted addr n := by
  constructor
  · rintro ⟨t, h⟩
    obtain ⟨slot, hr, hs, -⟩ := hostOp_read_next h
    exact ⟨hr, admitted_of_admittedSlot hs⟩
  · rintro ⟨hr, ha⟩
    exact ⟨_, memRead_admitted hr (admittedSlot_of_admitted ha)⟩

theorem Slot.write_completes (s : State) (v : Word) (slot : Slot) : ∃ t, slot.write s v = .next t := by
  cases slot with
  | reserved => exact ⟨_, rfl⟩
  | reg r =>
    by_cases hc : r = .cmd
    · subst hc; exact execute_completes v s
    · exact ⟨_, Slot.write_reg s v hc⟩

theorem hostOp_write_served_iff (addr : HostAddr) (n : Nat) (v : Word) (s : State) :
    (∃ t, hostOp (.write addr n v) s = .next t) ↔ s.resetIn = false ∧ Admitted addr n := by
  constructor
  · rintro ⟨t, h⟩
    obtain ⟨hr, ⟨hs, -⟩ | ⟨r, hs, -⟩ | ⟨hs, -⟩⟩ := hostOp_write_next h <;>
      exact ⟨hr, admitted_of_admittedSlot hs⟩
  · rintro ⟨hr, ha⟩
    rw [hostOp, memWrite_admitted v hr (admittedSlot_of_admitted ha)]
    exact Slot.write_completes s v _

theorem hostOp_read_resetIn {addr : HostAddr} {n : Nat} {s t : State} (h : hostOp (.read addr n) s = .next t) :
    t.resetIn = s.resetIn := by
  obtain ⟨slot, -, -, rfl⟩ := hostOp_read_next h
  rfl

theorem hostOp_write_resetIn {addr : HostAddr} {n : Nat} {v : Word} {s t : State}
    (h : hostOp (.write addr n v) s = .next t) : t.resetIn = s.resetIn := by
  obtain ⟨-, ⟨-, he⟩ | ⟨r, -, -, rfl⟩ | ⟨-, rfl⟩⟩ := hostOp_write_next h
  · exact execute_resetIn he
  · exact r.store_resetIn s v
  · rfl

/-! ### Safe runs -/

theorem runOps_cons_next_iff {op : HostOp} {rest : List HostOp} {s t : State} :
    runOps (op :: rest) s = .next t ↔ ∃ u, hostOp op s = .next u ∧ runOps rest u = .next t := by
  rw [runOps]
  cases hostOp op s <;> simp

theorem runsSafely_cons_iff {op : HostOp} {rest : List HostOp} {s : State} :
    RunsSafely (op :: rest) s ↔ ∃ u, hostOp op s = .next u ∧ RunsSafely rest u := by
  simp only [RunsSafely, runOps_cons_next_iff]
  exact ⟨fun ⟨t, u, hu, ht⟩ => ⟨u, hu, t, ht⟩, fun ⟨u, hu, t, ht⟩ => ⟨t, u, hu, ht⟩⟩

/-- An operation that always answers `u` leaves the run to the rest of the program. -/
theorem runsSafely_cons_of_next {op : HostOp} {rest : List HostOp} {s u : State} (h : hostOp op s = .next u) :
    RunsSafely (op :: rest) s ↔ RunsSafely rest u := by
  rw [runsSafely_cons_iff, h]
  exact ⟨fun ⟨_, hu, hrest⟩ => Host.Outcome.next.inj hu ▸ hrest, fun hrest => ⟨u, rfl, hrest⟩⟩

/-- A run that starts with an access: the access is served, and the rest starts with the reset input at
the same level. -/
theorem runsSafely_access_iff {op : HostOp} {rest : List HostOp} {s : State} {P : Prop}
    (hserved : (∃ t, hostOp op s = .next t) ↔ s.resetIn = false ∧ P)
    (hlevel : ∀ t, hostOp op s = .next t → t.resetIn = s.resetIn)
    (ih : ∀ t, RunsSafely rest t ↔ KeepsContract t.resetIn rest) :
    RunsSafely (op :: rest) s ↔ s.resetIn = false ∧ P ∧ KeepsContract s.resetIn rest := by
  rw [runsSafely_cons_iff]
  constructor
  · rintro ⟨t, h, hrest⟩
    obtain ⟨hr, hP⟩ := hserved.mp ⟨t, h⟩
    exact ⟨hr, hP, hlevel t h ▸ (ih t).mp hrest⟩
  · rintro ⟨hr, hP, hrest⟩
    obtain ⟨t, h⟩ := hserved.mpr ⟨hr, hP⟩
    exact ⟨t, h, (ih t).mpr ((hlevel t h).symm ▸ hrest)⟩

/-- Settles O16, by induction on the host program, over every start state. -/
theorem runIsSafeExactlyWhenContractIsKept : Obligations.RunIsSafeExactlyWhenContractIsKept := by
  intro p
  induction p with
  | nil => exact fun s => ⟨fun _ => trivial, fun _ => ⟨s, rfl⟩⟩
  | cons op rest ih =>
    intro s
    cases op with
    | read addr n =>
      exact runsSafely_access_iff (hostOp_read_served_iff addr n s) (fun _ => hostOp_read_resetIn) ih
    | write addr n v =>
      exact runsSafely_access_iff (hostOp_write_served_iff addr n v s) (fun _ => hostOp_write_resetIn) ih
    | powerUp => exact (runsSafely_cons_of_next rfl).trans (ih s.resetRegisters)
    | assertReset => exact (runsSafely_cons_of_next rfl).trans (ih { s.resetRegisters with resetIn := true })
    | releaseReset => exact (runsSafely_cons_of_next rfl).trans (ih { s with resetIn := false })

/-! ### The host's remaining program is unseen by every operation (20_memory.md R24) -/

/-- The state with the given operations left to the host. -/
def State.withProgram (p : List HostOp) (s : State) : State := { s with program := p }

theorem withProgram_passesCrcAndErr (p : List HostOp) : PassesCrcAndErr (State.withProgram p) where
  crc _ _ := rfl
  err _ _ := rfl

theorem withFrame_withProgram (p : List HostOp) (s : State) (len : Nat) {accept : State → State}
    (ha : ∀ u : State, accept (u.withProgram p) = (accept u).withProgram p) :
    withFrame len (s.withProgram p) accept = mapNext (State.withProgram p) (withFrame len s accept) := by
  have hf := withProgram_passesCrcAndErr p
  have hgate : (s.withProgram p).gateCrc len = (s.gateCrc len).withProgram p := rfl
  have hpass : ((s.gateCrc len).withProgram p).gatePasses len = (s.gateCrc len).gatePasses len := rfl
  unfold withFrame
  rw [hgate, hpass]
  split
  · split
    · rw [← complete_unseen hf, ← ha]; rfl
    · exact raiseError_unseen hf (s.gateCrc len).invalidate _
  · exact raiseError_unseen hf s.invalidate _

theorem exec_withProgram (i : Instr) (p : List HostOp) (s : State) :
    exec i (s.withProgram p) = mapNext (State.withProgram p) (exec i s) := by
  have hf := withProgram_passesCrcAndErr p
  cases i with
  | nop | crcInit | crcFeed data | packMeasureCmd | packInitCmd | convHum | convTemp => rfl
  | crcBuf len => exact exec_crcBuf_unseen hf s len fun _ => rfl
  | crcVerify len => exact exec_crcVerify_unseen hf s len (fun _ => rfl) fun _ _ => rfl
  | pack len => exact exec_pack_unseen hf s len ⟨rfl, rfl⟩ rfl (fun _ => rfl) fun _ => rfl
  | unpack len => exact withFrame_withProgram p s len fun _ => rfl
  | unpackConvert len =>
    rw [exec_unpackConvert, exec_unpackConvert]
    exact withFrame_withProgram p s len fun _ => rfl

theorem execute_withProgram (w : Word) (p : List HostOp) (s : State) :
    execute w (s.withProgram p) = mapNext (State.withProgram p) (execute w s) := by
  unfold execute
  cases decode w with
  | command i => exact exec_withProgram i p s
  | illegal why => rfl

theorem Slot.write_withProgram (slot : Slot) (v : Word) (p : List HostOp) (s : State) :
    slot.write (s.withProgram p) v = mapNext (State.withProgram p) (slot.write s v) := by
  cases slot with
  | reserved => rfl
  | reg r =>
    cases r with
    | cmd => exact execute_withProgram v p s
    | ctrl | status | crc | buf0 | buf1 | statByte | humRaw | tempRaw | humOutLo | humOutHi | tempOutLo
    | tempOutHi => rfl

/-- An operation served with one program left is served alike with any other, which stays as it is. -/
theorem hostOp_withProgram {op : HostOp} {s t : State} (p : List HostOp) (h : hostOp op s = .next t) :
    hostOp op (s.withProgram p) = .next (t.withProgram p) := by
  cases op with
  | powerUp | assertReset | releaseReset => cases h; rfl
  | read addr n =>
    obtain ⟨slot, hr, hs, rfl⟩ := hostOp_read_next h
    have hread : slot.read (s.withProgram p) = slot.read s := slot.read_with_host s p s.responses
    rw [hostOp, memRead_admitted (s := s.withProgram p) hr hs, hread]
    rfl
  | write addr n v =>
    obtain ⟨hr, ha⟩ := (hostOp_write_served_iff addr n v s).mp ⟨t, h⟩
    have hs := admittedSlot_of_admitted ha
    rw [hostOp, memWrite_admitted v hr hs] at h
    rw [hostOp, memWrite_admitted (s := s.withProgram p) v hr hs, Slot.write_withProgram, h]
    rfl

/-! ### Steps and runs -/

theorem core_run_succ {M : Host.Core} {k : Nat} {s u : M.State} (h : M.step s = .next u) :
    M.run (k + 1) s = M.run k u := by
  rw [Host.Core.run, h]

/-- Settles O17, by induction on the host program: each step makes its first operation, whatever follows it. -/
theorem stepsMakeTheRunInOrder : Obligations.StepsMakeTheRunInOrder := by
  intro p rest
  induction p with
  | nil => intro s t h; cases h; rfl
  | cons op p ih =>
    intro s t h
    obtain ⟨u, hop, hrun⟩ := runOps_cons_next_iff.mp h
    have hstep : Sys2Proof.core.step (s.withProgram (op :: (p ++ rest))) = .next (u.withProgram (p ++ rest)) :=
      hostOp_withProgram (s := s) (p ++ rest) hop
    exact (core_run_succ hstep).trans (ih u t hrun)

end Sys2Proof.Machine
end

section
/-! PROOFS. The decoder as the table of 30_encoding.md R43: any row that selects a word decodes it. -/

namespace Sys2Proof.Machine

/-! ### Tables of rows -/

/-- A row selects a word: under the row's mask the word is the row's match. -/
def Selects (row : Word × Word × (Word → Instr)) (w : Word) : Prop := w &&& row.1 = row.2.1

/-- No word is selected by two rows of a table. -/
def RowsDisjoint (rows : List (Word × Word × (Word → Instr))) : Prop :=
  rows.Pairwise fun a b => ∀ w : Word, ¬(Selects a w ∧ Selects b w)

/-- The command of the first row of a table that selects the word. -/
def decodeBy (rows : List (Word × Word × (Word → Instr))) (w : Word) : Decoded :=
  match rows with
  | [] => .illegal (if 12 ≤ (fieldOp w).toNat then .reservedOp else .nonzeroField)
  | row :: rest => if w &&& row.1 = row.2.1 then .command (row.2.2 w) else decodeBy rest w

/-- The decoder tries the rows of R43 in order. -/
theorem decode_eq_decodeBy (w : Word) : decode w = decodeBy decodeRows w := rfl

theorem decodeBy_cons_of_selects {row : Word × Word × (Word → Instr)} {w : Word} (h : Selects row w)
    (rest : List (Word × Word × (Word → Instr))) : decodeBy (row :: rest) w = .command (row.2.2 w) :=
  if_pos h

theorem decodeBy_cons_of_not_selects {row : Word × Word × (Word → Instr)} {w : Word} (h : ¬Selects row w)
    (rest : List (Word × Word × (Word → Instr))) : decodeBy (row :: rest) w = decodeBy rest w :=
  if_neg h

section

variable {rows : List (Word × Word × (Word → Instr))} {w : Word}

/-- In a table of disjoint rows the order does not matter. -/
theorem decodeBy_of_selects (hd : RowsDisjoint rows) :
    ∀ row ∈ rows, Selects row w → decodeBy rows w = .command (row.2.2 w) := by
  induction rows with
  | nil => simp
  | cons first rest ih =>
    obtain ⟨hfirst, hrest⟩ := List.pairwise_cons.mp hd
    refine List.forall_mem_cons.mpr ⟨fun h => decodeBy_cons_of_selects h rest, fun row hrow h => ?_⟩
    rw [decodeBy_cons_of_not_selects (fun h' => hfirst row hrow w ⟨h', h⟩)]
    exact ih hrest row hrow h

theorem decodeBy_of_not_selects (h : ∀ row ∈ rows, ¬Selects row w) : ∃ why, decodeBy rows w = .illegal why := by
  induction rows with
  | nil => exact ⟨_, rfl⟩
  | cons first rest ih =>
    obtain ⟨hfirst, hrest⟩ := List.forall_mem_cons.mp h
    rw [decodeBy_cons_of_not_selects hfirst]
    exact ih hrest

/-- A word that decodes to a command is selected by a row of that command. -/
theorem exists_row_of_decodeBy {i : Instr} (h : decodeBy rows w = .command i) :
    ∃ row ∈ rows, Selects row w ∧ row.2.2 w = i := by
  induction rows with
  | nil => cases h
  | cons first rest ih =>
    by_cases hs : Selects first w
    · rw [decodeBy_cons_of_selects hs] at h
      exact ⟨first, List.mem_cons_self, hs, Decoded.command.inj h⟩
    · rw [decodeBy_cons_of_not_selects hs] at h
      obtain ⟨row, hrow, hrest⟩ := ih h
      exact ⟨row, List.mem_cons_of_mem first hrow, hrest⟩

end

/-! ### The fields a row fixes -/

/-- A field whose bits are all in the mask is the match's. -/
theorem extractLsb'_of_masked {w mask m : Word} {start len : Nat} (h : w &&& mask = m)
    (hmask : mask.extractLsb' start len = BitVec.allOnes len) : w.extractLsb' start len = m.extractLsb' start len := by
  rw [← h, BitVec.extractLsb'_and, hmask, BitVec.and_allOnes]

/-- Every row of R43 compares all four bits of OP. -/
theorem mask_covers_op : ∀ row ∈ decodeRows, row.1.extractLsb' 0 4 = BitVec.allOnes 4 := by
  simp [decodeRows]

/-- No two rows of R43 have the same OP. -/
theorem decodeRows_op_pairwise : decodeRows.Pairwise fun a b => fieldOp a.2.1 ≠ fieldOp b.2.1 := by
  simp [decodeRows, fieldOp]

/-- OP tells the rows of R43 apart. -/
theorem decodeRows_disjoint : RowsDisjoint decodeRows := by
  refine decodeRows_op_pairwise.imp_of_mem fun {a b} ha hb hne w ⟨hwa, hwb⟩ => hne ?_
  calc fieldOp a.2.1 = fieldOp w := (extractLsb'_of_masked hwa (mask_covers_op a ha)).symm
    _ = fieldOp b.2.1 := extractLsb'_of_masked hwb (mask_covers_op b hb)

/-- Settles O3: the decoder is the table of R43, whose rows OP tells apart. -/
theorem decodeIsTheRowThatMatches : Obligations.DecodeIsTheRowThatMatches :=
  ⟨fun row hrow _ h => decodeBy_of_selects decodeRows_disjoint row hrow h, fun _ h => decodeBy_of_not_selects h,
    decodeRows_disjoint⟩

end Sys2Proof.Machine
end

section
/-! PROOFS. Encoding and decoding are inverse (30_encoding.md R43, R45, R46). -/

namespace Sys2Proof.Machine

/-! ### The fields of a command word -/

theorem fieldLen_commandWord (op len : BitVec 4) (data : Byte) : fieldLen (commandWord op len data) = len := by
  unfold fieldLen commandWord
  iterate 2 rw [BitVec.extractLsb'_append_eq_of_le (by decide)]
  exact BitVec.extractLsb'_append_eq_right

theorem fieldData_commandWord (op len : BitVec 4) (data : Byte) : fieldData (commandWord op len data) = data := by
  unfold fieldData commandWord
  iterate 4 rw [BitVec.extractLsb'_append_eq_of_le (by decide)]
  exact BitVec.extractLsb'_append_eq_right

/-- A LEN that fits its field is read back from the word. -/
theorem fieldLen_commandWord_ofNat (op : BitVec 4) {len : Nat} (data : Byte) (h : Instr.lenFits len = true) :
    (fieldLen (commandWord op (BitVec.ofNat 4 len) data)).toNat = len := by
  have hlen : len ≤ 15 := of_decide_eq_true h
  rw [fieldLen_commandWord, BitVec.toNat_ofNat, Nat.mod_eq_of_lt (by omega)]

/-! ### Decoding an encoded command -/

/-- A command decodes from its word when a row of its mask and match gives it back. -/
theorem decode_encode_of_row {i : Instr} {g : Word → Instr} (hmatch : Laws.RowMatch.Statement i)
    (hrow : (Laws.RowMatch.rowMask i, Laws.RowMatch.rowMatch i, g) ∈ decodeRows) (hg : g (encode i) = i) :
    decode (encode i) = .command i := by
  have h : decode (encode i) = .command (g (encode i)) := decodeBy_of_selects decodeRows_disjoint _ hrow hmatch
  rw [h, hg]

/-- The same for a command with LEN, whose row reads LEN alone. -/
theorem decode_encode_of_lenRow {f : Nat → Instr} {op : BitVec 4} {len : Nat} (hlen : Instr.lenFits len = true)
    (hmatch : Laws.RowMatch.Statement (f len)) (henc : encode (f len) = commandWord op (BitVec.ofNat 4 len) 0)
    (hrow : (Laws.RowMatch.rowMask (f len), Laws.RowMatch.rowMatch (f len), fun w : Word => f (fieldLen w).toNat) ∈
      decodeRows) :
    decode (encode (f len)) = .command (f len) :=
  decode_encode_of_row hmatch hrow (by rw [henc, fieldLen_commandWord_ofNat op 0 hlen])

/-- Settles O1: each command's word is selected by the command's row, which reads its operand back. -/
theorem decodeOfEncodeIsTheCommand : Obligations.DecodeOfEncodeIsTheCommand := by
  intro i h
  cases i with
  | nop | crcInit | packMeasureCmd | packInitCmd | convHum | convTemp => rfl
  | crcFeed data =>
    refine decode_encode_of_row (Laws.RowMatch.crcFeed data) (List.getElem_mem (n := 2) (by decide)) ?_
    exact congrArg Instr.crcFeed (fieldData_commandWord 2 0 data)
  | crcBuf len => exact decode_encode_of_lenRow h (Laws.RowMatch.crcBuf len) rfl (List.getElem_mem (n := 3) (by decide))
  | crcVerify len =>
    exact decode_encode_of_lenRow h (Laws.RowMatch.crcVerify len) rfl (List.getElem_mem (n := 4) (by decide))
  | unpack len => exact decode_encode_of_lenRow h (Laws.RowMatch.unpack len) rfl (List.getElem_mem (n := 5) (by decide))
  | pack len => exact decode_encode_of_lenRow h (Laws.RowMatch.pack len) rfl (List.getElem_mem (n := 6) (by decide))
  | unpackConvert len =>
    exact decode_encode_of_lenRow h (Laws.RowMatch.unpackConvert len) rfl (List.getElem_mem (n := 11) (by decide))

/-! ### Encoding a decoded word -/

/-- A word is its six fields, most significant first (30_encoding.md R40). -/
theorem fields_append (w : Word) :
    w.extractLsb' 24 8 ++ fieldData w ++ w.extractLsb' 12 4 ++ fieldLen w ++ w.extractLsb' 4 4 ++ fieldOp w = w := by
  unfold fieldOp fieldLen fieldData
  iterate 5 rw [BitVec.extractLsb'_append_extractLsb'_eq_extractLsb' (by rfl)]
  exact BitVec.extractLsb'_eq_self

/-- The match of a row is its OP: every field above is 0. -/
theorem extractLsb'_opWord (op : BitVec 4) {start : Nat} (len : Nat) (h : 4 ≤ start) :
    (op.setWidth 32).extractLsb' start len = 0#len := by
  apply BitVec.eq_of_getLsbD_eq
  intro j hj
  have hhigh : op.getLsbD (start + j) = false := BitVec.getLsbD_of_ge op _ (by omega)
  simp [hhigh]

/-- A field above OP that a row compares is 0 in the words the row selects. -/
theorem extractLsb'_eq_zero_of_masked {w mask : Word} {op : BitVec 4} {start len : Nat}
    (h : w &&& mask = op.setWidth 32) (hmask : mask.extractLsb' start len = BitVec.allOnes len) (hs : 4 ≤ start) :
    w.extractLsb' start len = 0#len :=
  (extractLsb'_of_masked h hmask).trans (extractLsb'_opWord op len hs)

theorem fieldOp_opWord : ∀ op : BitVec 4, fieldOp (op.setWidth 32) = op := by decide

theorem opWord_masked : ∀ op : BitVec 4, op.setWidth 32 &&& 0xFF00F0FF#32 = op.setWidth 32 := by decide

/-- A word that a row selects by OP and the three reserved fields has LEN and DATA open and nothing else. -/
theorem commandWord_of_masked {w mask : Word} {op : BitVec 4} (h : w &&& mask = op.setWidth 32)
    (hmask : mask &&& 0xFF00F0FF#32 = 0xFF00F0FF#32) : commandWord op (fieldLen w) (fieldData w) = w := by
  have hall : w &&& 0xFF00F0FF#32 = op.setWidth 32 := by
    rw [← hmask, ← BitVec.and_assoc, h, opWord_masked]
  have hrsv2 : w.extractLsb' 24 8 = 0#8 := extractLsb'_eq_zero_of_masked hall rfl (by decide)
  have hrsv1 : w.extractLsb' 12 4 = 0#4 := extractLsb'_eq_zero_of_masked hall rfl (by decide)
  have hrsv0 : w.extractLsb' 4 4 = 0#4 := extractLsb'_eq_zero_of_masked hall rfl (by decide)
  have hop : fieldOp w = op := (extractLsb'_of_masked hall rfl).trans (fieldOp_opWord op)
  have hw := fields_append w
  rwa [hrsv2, hrsv1, hrsv0, hop] at hw

/-- Every word a row selects is the word of the row's command, which is well-formed. -/
def RowEncodes (row : Word × Word × (Word → Instr)) : Prop :=
  ∀ w : Word, Selects row w → (row.2.2 w).WellFormed ∧ encode (row.2.2 w) = w

/-- A row that compares every bit selects one word. -/
theorem rowEncodes_of_plain {i : Instr} (h : i.WellFormed) : RowEncodes (0xFFFFFFFF#32, encode i, fun _ => i) :=
  fun _ hw => ⟨h, hw.symm.trans BitVec.and_allOnes⟩

/-- A row that leaves LEN open fixes DATA at 0. -/
theorem rowEncodes_of_len {f : Nat → Instr} (op : BitVec 4) (hwf : ∀ n, (f n).wellFormed = Instr.lenFits n)
    (henc : ∀ n, encode (f n) = commandWord op (BitVec.ofNat 4 n) 0) :
    RowEncodes (0xFFFFF0FF#32, op.setWidth 32, fun w => f (fieldLen w).toNat) := by
  intro w (hw : w &&& 0xFFFFF0FF#32 = op.setWidth 32)
  have hdata : fieldData w = 0#8 := extractLsb'_eq_zero_of_masked hw rfl (by decide)
  have hlen : (fieldLen w).toNat ≤ 15 := Nat.le_of_lt_succ (fieldLen w).isLt
  have hword := commandWord_of_masked hw rfl
  rw [hdata] at hword
  refine ⟨(hwf _).trans (decide_eq_true hlen), ?_⟩
  rwa [henc, BitVec.ofNat_toNat, BitVec.setWidth_eq]

/-- The row of CRC_FEED leaves DATA open and fixes LEN at 0. -/
theorem rowEncodes_crcFeed : RowEncodes (0xFF00FFFF#32, (2#4).setWidth 32, fun w => .crcFeed (fieldData w)) := by
  intro w (hw : w &&& 0xFF00FFFF#32 = (2#4).setWidth 32)
  have hlen : fieldLen w = 0#4 := extractLsb'_eq_zero_of_masked hw rfl (by decide)
  have hword := commandWord_of_masked hw rfl
  rw [hlen] at hword
  exact ⟨rfl, hword⟩

theorem decodeRows_encode : ∀ row ∈ decodeRows, RowEncodes row := by
  simp only [decodeRows, List.forall_mem_cons]
  exact ⟨rowEncodes_of_plain (i := .nop) rfl, rowEncodes_of_plain (i := .crcInit) rfl, rowEncodes_crcFeed,
    rowEncodes_of_len (f := .crcBuf) 3 (fun _ => rfl) fun _ => rfl,
    rowEncodes_of_len (f := .crcVerify) 4 (fun _ => rfl) fun _ => rfl,
    rowEncodes_of_len (f := .unpack) 5 (fun _ => rfl) fun _ => rfl,
    rowEncodes_of_len (f := .pack) 6 (fun _ => rfl) fun _ => rfl,
    rowEncodes_of_plain (i := .packMeasureCmd) rfl, rowEncodes_of_plain (i := .packInitCmd) rfl,
    rowEncodes_of_plain (i := .convHum) rfl, rowEncodes_of_plain (i := .convTemp) rfl,
    rowEncodes_of_len (f := .unpackConvert) 11 (fun _ => rfl) fun _ => rfl, List.forall_mem_nil _⟩

/-- Settles O2: the row that selects a word fixes every bit that its command does not encode. -/
theorem encodeOfDecodeIsTheWord : Obligations.EncodeOfDecodeIsTheWord := by
  intro w i h
  rw [decode_eq_decodeBy] at h
  obtain ⟨row, hrow, hs, rfl⟩ := exists_row_of_decodeBy h
  exact decodeRows_encode row hrow w hs

end Sys2Proof.Machine
end

section
/-! PROOFS. The assembler and the number of a command word (30_encoding.md R42, R43, R46). -/

namespace Sys2Proof.Machine

/-! ### The number of a command word -/

/-- The fields of a command word at their places (30_encoding.md R40). -/
theorem commandWord_toNat (op len : BitVec 4) (data : Byte) :
    (commandWord op len data).toNat = op.toNat ||| len.toNat <<< 8 ||| data.toNat <<< 16 := by
  simp only [commandWord, BitVec.toNat_append, BitVec.toNat_ofNat]
  simp [Nat.shiftLeft_or_distrib, ← Nat.shiftLeft_add, Nat.or_comm, Nat.or_assoc]

/-- The encoder writes the fields of a command, each cut to its width. -/
theorem encode_eq_commandWord (i : Instr) :
    encode i = commandWord (BitVec.ofNat 4 (commandFields i).1) (BitVec.ofNat 4 (commandFields i).2.1)
      (BitVec.ofNat 8 (commandFields i).2.2) := by
  cases i <;> simp [encode, commandFields]

/-- The fields of a well-formed command fit their widths. -/
theorem commandFields_lt {i : Instr} (h : i.WellFormed) :
    (commandFields i).1 < 16 ∧ (commandFields i).2.1 < 16 ∧ (commandFields i).2.2 < 256 := by
  cases i with
  | nop | crcInit | packMeasureCmd | packInitCmd | convHum | convTemp => decide
  | crcFeed data => simpa [commandFields] using data.isLt
  | crcBuf len | crcVerify len | unpack len | pack len | unpackConvert len =>
    have hlen : len ≤ 15 := of_decide_eq_true h
    simpa [commandFields] using Nat.lt_succ_of_le hlen

theorem encode_toNat {i : Instr} (h : i.WellFormed) : (encode i).toNat = encNumber i := by
  obtain ⟨hop, hlen, hdata⟩ := commandFields_lt h
  rw [encode_eq_commandWord, commandWord_toNat, BitVec.toNat_ofNat, BitVec.toNat_ofNat, BitVec.toNat_ofNat,
    Nat.mod_eq_of_lt hop, Nat.mod_eq_of_lt hlen, Nat.mod_eq_of_lt hdata, encNumber]

/-! ### What assembles is well-formed -/

theorem plainCommand_eq_some {i j : Instr} {operand : Option Nat} (h : plainCommand i operand = some j) : j = i := by
  cases operand <;> cases h
  rfl

theorem lenCommand_eq_some {f : Nat → Instr} {j : Instr} {operand : Option Nat} (h : lenCommand f operand = some j) :
    ∃ len, Instr.lenFits len = true ∧ j = f len := by
  cases operand with
  | none => cases h
  | some n =>
    simp only [lenCommand, Option.ite_none_right_eq_some, Option.some.injEq] at h
    exact ⟨n, decide_eq_true h.1, h.2.symm⟩

theorem dataCommand_eq_some {f : Byte → Instr} {j : Instr} {operand : Option Nat}
    (h : dataCommand f operand = some j) : ∃ data, j = f data := by
  cases operand with
  | none => cases h
  | some n =>
    simp only [dataCommand, Option.ite_none_right_eq_some, Option.some.injEq] at h
    exact ⟨_, h.2.symm⟩

theorem assemble_wellFormed {m : Mnemonic} {operand : Option Nat} {i : Instr} (h : assemble m operand = some i) :
    i.WellFormed := by
  cases m with
  | NOP | CRC_INIT | PACK_MEASURE_CMD | PACK_INIT_CMD | CONV_HUM | CONV_TEMP =>
    rw [plainCommand_eq_some h]; rfl
  | CRC_FEED => obtain ⟨data, rfl⟩ := dataCommand_eq_some h; rfl
  | CRC_BUF | CRC_VERIFY | UNPACK | PACK | UNPACK_CONVERT =>
    obtain ⟨len, hlen, rfl⟩ := lenCommand_eq_some h; exact hlen

/-- A line spells what its mnemonic and operand assemble to. -/
theorem exists_assemble_of_parseCommand {line : List Char} {i : Instr} (h : parseCommand line = some i) :
    ∃ m operand, assemble m operand = some i := by
  unfold parseCommand at h
  split at h
  · split at h
    · cases h
    · exact ⟨_, _, h⟩
  · split at h
    · exact ⟨_, _, h⟩
    · cases h
  · cases h

/-- Settles O6: what a line spells is well-formed, so its word decodes back, to its fields' number. -/
theorem assemblerSpellsExactlyTheCommands : Obligations.AssemblerSpellsExactlyTheCommands := by
  refine ⟨fun m i h => ?plain, fun m f h => ?len, ⟨rfl, fun n => rfl⟩, fun i => encode_toNat,
    fun line w h => ?line⟩
  case plain =>
    simp only [List.mem_cons, Prod.mk.injEq, List.not_mem_nil, or_false] at h
    obtain ⟨rfl, rfl⟩ | ⟨rfl, rfl⟩ | ⟨rfl, rfl⟩ | ⟨rfl, rfl⟩ | ⟨rfl, rfl⟩ | ⟨rfl, rfl⟩ := h <;>
      exact ⟨rfl, fun n => rfl⟩
  case len =>
    simp only [List.mem_cons, Prod.mk.injEq, List.not_mem_nil, or_false] at h
    obtain ⟨rfl, rfl⟩ | ⟨rfl, rfl⟩ | ⟨rfl, rfl⟩ | ⟨rfl, rfl⟩ | ⟨rfl, rfl⟩ := h <;>
      exact ⟨rfl, fun n => rfl⟩
  case line =>
    obtain ⟨i, hi, rfl⟩ := Option.map_eq_some_iff.mp h
    obtain ⟨m, operand, ha⟩ := exists_assemble_of_parseCommand hi
    have hwf := assemble_wellFormed ha
    exact ⟨i, decodeOfEncodeIsTheCommand i hwf, encode_toNat hwf⟩

/-- Settles O5, by running the decoder on each of the seven words. -/
theorem writtenOutWordsDecode : Obligations.WrittenOutWordsDecode := by
  unfold Obligations.WrittenOutWordsDecode
  decide

end Sys2Proof.Machine
end

section
/-! PROOFS. The form ld_frame (30_encoding.md R47). -/

namespace Sys2Proof.Machine

/-- A named write to a register other than CMD stores its value. -/
theorem hostOp_wrOp {s : State} {r : Reg} (v : Word) (hr : s.resetIn = false) (hc : r ≠ .cmd) :
    hostOp (wrOp r v) s = .next (r.store s v) :=
  (memWrite_admitted v hr (admittedSlot_reg r)).trans (Slot.write_reg s v hc)

theorem runOps_cons_of_next {op : HostOp} {rest : List HostOp} {s t : State} (h : hostOp op s = .next t) :
    runOps (op :: rest) s = runOps rest t := by
  rw [runOps, h]

/-- A packed word holds its bytes, little-endian (20_memory.md R31), and 0 where there is none. -/
theorem byteOf_packWord (bytes : List Byte) {k : Nat} (hk : k < 4) : byteOf (packWord bytes) k = bytes.getD k 0 := by
  unfold byteOf packWord
  interval_cases k
  · exact BitVec.extractLsb'_append_eq_right
  · rw [BitVec.extractLsb'_append_eq_of_le (by decide)]
    exact BitVec.extractLsb'_append_eq_right
  · iterate 2 rw [BitVec.extractLsb'_append_eq_of_le (by decide)]
    exact BitVec.extractLsb'_append_eq_right
  · iterate 3 rw [BitVec.extractLsb'_append_eq_of_le (by decide)]
    exact BitVec.extractLsb'_eq_self

/-- The state with the frame buffer loaded. -/
def State.loadFrame (s : State) (bytes : List Byte) : State :=
  { s with buf0 := packWord bytes, buf1 := packWord (bytes.drop 4) }

theorem State.buf_loadFrame (s : State) (bytes : List Byte) (i : Fin 8) :
    (s.loadFrame bytes).buf i = bytes.getD i.val 0 := by
  by_cases h : i.val < 4
  · rw [State.buf, if_pos h]
    exact byteOf_packWord bytes h
  · rw [State.buf, if_neg h]
    have hi : 4 + (i.val - 4) = i.val := by omega
    calc byteOf (packWord (bytes.drop 4)) (i.val - 4)
      _ = (bytes.drop 4).getD (i.val - 4) 0 := byteOf_packWord _ (by omega)
      _ = bytes.getD i.val 0 := by
        rw [List.getD_eq_getElem?_getD, List.getElem?_drop, hi, List.getD_eq_getElem?_getD]

/-- The two writes of ld_frame load BUF0 and BUF1. -/
theorem runOps_ldFrame (bytes : List Byte) {s : State} (hr : s.resetIn = false) :
    runOps (HostForm.ldFrame bytes).expand s = .next (s.loadFrame bytes) := by
  have h0 : hostOp (wrOp .buf0 (packWord bytes)) s = .next { s with buf0 := packWord bytes } :=
    hostOp_wrOp _ hr (by decide)
  have h1 : hostOp (wrOp .buf1 (packWord (bytes.drop 4))) { s with buf0 := packWord bytes } =
      .next (s.loadFrame bytes) := hostOp_wrOp _ hr (by decide)
  exact (runOps_cons_of_next h0).trans (runOps_cons_of_next h1)

/-- Settles O19: the two writes load BUF0 and BUF1 alone, with the bytes in frame order. -/
theorem loadFramePutsTheBytesInOrder : Obligations.LoadFramePutsTheBytesInOrder :=
  fun bytes s hr _ => ⟨s.loadFrame bytes, runOps_ldFrame bytes hr, s.buf_loadFrame bytes, rfl⟩

end Sys2Proof.Machine
end

section
/-! PROOFS. The checksum function and its laws (40_checksum.md R50 to R52). -/

namespace Sys2Proof.Machine

/-! ### One step of the checksum -/

/-- A step is injective in its byte: a wrong byte never leaves the right accumulator. -/
theorem crc8Step_injective (c : Byte) : Function.Injective (crc8Step c) :=
  (crcShifts_injective 8).comp (xor_right_involutive c).injective

/-- Folding the accumulator's own value clears it. -/
@[simp] theorem crc8Step_self (c : Byte) : crc8Step c c = 0 := by
  rw [crc8Step, BitVec.xor_self]
  exact crcShifts_zero 8

/-- A step on numbers is eight rounds of the loop of 40_checksum.md R51. -/
theorem crc8Step_toNat (c b : Byte) : (crc8Step c b).toNat = crcRound^[8] (c.toNat ^^^ b.toNat) := by
  rw [crc8Step, crcShifts_toNat, BitVec.toNat_xor]

/-- Settles O20: the rounds of the model are the rounds on numbers. -/
theorem crcStepIsTheShiftLoop : Obligations.CrcStepIsTheShiftLoop := crc8Step_toNat

/-- The table of 95_test_vectors.md section 2.1 lists eight rounds of each byte, in order. -/
theorem crcTable_getElem? : ∀ x : Byte, crcTable.flatten[x.toNat]? = some (crcShifts 8 x) := by decide +kernel

/-- Settles O22: a step reads the table at `c ^ b`, and an injective map of the bytes to themselves is a bijection. -/
theorem crcStepIsTheSpecsTable : Obligations.CrcStepIsTheSpecsTable :=
  ⟨fun c b => crcTable_getElem? (c ^^^ b), Finite.injective_iff_bijective.mp (crc8Step_injective 0)⟩

/-! ### The checksum of a sequence -/

theorem crc8_append_singleton (seq : List Byte) (b : Byte) : crc8 (seq ++ [b]) = crc8Step (crc8 seq) b :=
  crc8_append seq [b]

/-- A sequence with its own checksum appended has checksum 0 (40_checksum.md R52 law 4). -/
theorem crc8_append_crc8 (seq : List Byte) : crc8 (seq ++ [crc8 seq]) = 0 := by
  rw [crc8_append_singleton, crc8Step_self]

/-- Sequences that differ in one byte have different checksums: the step at that byte tells them apart, and the
bytes after it keep the accumulators apart. -/
theorem crc8_byte_injective (before after : List Byte) :
    Function.Injective fun b => crc8 (before ++ b :: after) := by
  intro a b h
  simp only [crc8_append, List.foldl_cons] at h
  exact crc8Step_injective _ (crcFold_injective after h)

/-- A bit of a byte at a place below 8 is not lost by the shift. -/
theorem one_shiftLeft_ne_zero : ∀ k < 8, 1#8 <<< k ≠ 0#8 := by decide

/-- Settles O21: the fold starts at 0xFF and takes one more byte by one more step; the check value is computed. -/
theorem crcFoldsTheBytesInOrder : Obligations.CrcFoldsTheBytesInOrder :=
  ⟨crc8_nil, crc8_append_singleton, by decide +kernel⟩

/-- Settles O23: the fold of `s ++ t` is the fold of `t` from the fold of `s`, and folding the accumulator clears it. -/
theorem crcStreamsAndLeavesNoResidue : Obligations.CrcStreamsAndLeavesNoResidue :=
  ⟨crc8_nil, crc8_append, crc8_append_crc8⟩

/-- Settles O24: a flipped bit makes another byte, and another byte makes another checksum. -/
theorem singleBitFlipChangesTheChecksum : Obligations.SingleBitFlipChangesTheChecksum := by
  intro before after b k hk h
  have hb : b = b ^^^ 1#8 <<< k := crc8_byte_injective before after h
  exact one_shiftLeft_ne_zero k hk (xor_left_eq_self_iff.mp hb.symm)

end Sys2Proof.Machine
end

section
/-! PROOFS. The checksum commands (40_checksum.md R53 to R56). -/

namespace Sys2Proof.Machine

/-! ### The word of a command by its fields -/

/-- The fields do not overlap, so the number of a command is their weighted sum. -/
theorem encNumber_eq_sum {i : Instr} (h : i.WellFormed) :
    encNumber i = (commandFields i).1 + (commandFields i).2.1 * 256 + (commandFields i).2.2 * 65536 := by
  obtain ⟨hop, hlen, hdata⟩ := commandFields_lt h
  have hlow : (commandFields i).1 ||| (commandFields i).2.1 <<< 8 =
      (commandFields i).1 + (commandFields i).2.1 * 256 := by
    rw [Nat.or_comm, ← Nat.shiftLeft_add_eq_or_of_lt (by omega), Nat.shiftLeft_eq]
    omega
  rw [encNumber, hlow, Nat.or_comm, ← Nat.shiftLeft_add_eq_or_of_lt (by omega), Nat.shiftLeft_eq]
  omega

/-- The word of a well-formed command, given as a number, decodes to the command. -/
theorem decode_of_eq_sum {i : Instr} {n : Nat} (h : i.WellFormed)
    (hn : n = (commandFields i).1 + (commandFields i).2.1 * 256 + (commandFields i).2.2 * 65536) :
    decode (BitVec.ofNat 32 n) = .command i := by
  rw [hn, ← encNumber_eq_sum h, ← encode_toNat h, BitVec.ofNat_toNat, BitVec.setWidth_eq]
  exact decodeOfEncodeIsTheCommand i h

/-! ### CRC_INIT and CRC_FEED -/

/-- Settles O27: the word is OP 1 with every other field 0, and the command has one outcome. -/
theorem crcInitLoadsTheInitialValue : Obligations.CrcInitLoadsTheInitialValue :=
  ⟨decode_of_eq_sum (i := .crcInit) rfl rfl, exec_crcInit⟩

/-- CRC_FEEDs fold their bytes, in order, into whatever CRC holds. -/
theorem execAll_crcFeeds (seq : List Byte) (s : State) (c : Byte) :
    execAll (seq.map .crcFeed) { s with crc := c, err := 0 } =
      .next { s with crc := seq.foldl crc8Step c, err := 0 } := by
  induction seq generalizing c with
  | nil => rfl
  | cons b seq ih => exact (execAll_cons (exec_crcFeed b _) _).trans (ih (crc8Step c b))

/-- CRC_INIT and one CRC_FEED a byte compute the checksum, from whatever state (40_checksum.md R54). -/
theorem execAll_crcInit_crcFeeds (seq : List Byte) (s : State) :
    execAll (.crcInit :: seq.map .crcFeed) s = .next { s with crc := crc8 seq, err := 0 } := by
  rw [execAll_cons (exec_crcInit s), crc8_eq_foldl]
  exact execAll_crcFeeds seq s 0xFF

/-- CRC_FEED on numbers: eight rounds of the loop on CRC and DATA. -/
theorem exec_crcFeed_rounds (s : State) (data : Byte) :
    exec (.crcFeed data) s =
      .next { s with crc := BitVec.ofNat 8 (crcRound^[8] (s.crc.toNat ^^^ data.toNat)), err := 0 } := by
  rw [exec_crcFeed, ← crc8Step_toNat, BitVec.ofNat_toNat, BitVec.setWidth_eq]

/-- Settles O28: a CRC_FEED is one step, so a sequence of them is the fold of the checksum; with the checksum fed
too it is the residue. -/
theorem crcFeedFoldsOneByte : Obligations.CrcFeedFoldsOneByte := by
  refine ⟨fun data => decode_of_eq_sum rfl (by simp [commandFields]), exec_crcFeed_rounds, fun s h => ?_, fun seq s =>
    ⟨execAll_crcInit_crcFeeds seq s, ?_⟩⟩
  · rw [exec_crcFeed, h, crc8Step_self]
  · rw [execAll_crcInit_crcFeeds, crc8_append_crc8]

/-! ### CRC_BUF and CRC_VERIFY -/

/-- Settles O29: LEN 0 to 8 is accepted and every other LEN refused. -/
theorem crcBufChecksumsTheFirstBytes : Obligations.CrcBufChecksumsTheFirstBytes := by
  refine ⟨fun len h => decode_of_eq_sum (decide_eq_true h) (by simp [commandFields]), fun s len h => ?_,
    fun s len h => ?_⟩
  · obtain ⟨-, he⟩ | ⟨hlen, -⟩ := exec_crcBuf_cases len s
    · rw [he, State.bufBytes_eq_bytesUpTo s h]
    · omega
  · obtain ⟨hlen, -⟩ | ⟨-, he⟩ := exec_crcBuf_cases len s
    · omega
    · exact he

/-- CRC_VERIFY at LEN k + 1 compares byte k with the checksum of the bytes before it. -/
theorem exec_crcVerify_succ (s : State) (k : Fin 8) :
    exec (.crcVerify (k.val + 1)) s =
      .next { s with
        crc := crc8 (s.bytesUpTo k.val)
        err := if crc8 (s.bytesUpTo k.val) = s.buf k then 0 else 4 } := by
  have hk : Fin.ofNat 8 k.val = k := Fin.ofNat_val_eq_self k
  have hcases := exec_crcVerify_cases (k.val + 1) s
  rw [Nat.add_sub_cancel, hk, State.bufBytes_eq_bytesUpTo s k.isLt.le] at hcases
  obtain ⟨-, -, hc, he⟩ | ⟨-, -, hc, he⟩ | ⟨hlen, -⟩ := hcases
  · rw [he, if_pos hc]
  · rw [he, if_neg hc]
  · omega

/-- Settles O30: LEN 1 to 8 compares, and every other LEN is refused. -/
theorem crcVerifyComparesTheLastByte : Obligations.CrcVerifyComparesTheLastByte := by
  refine ⟨fun len h => decode_of_eq_sum (decide_eq_true h) (by simp [commandFields]), exec_crcVerify_succ,
    fun s len h => ?_⟩
  obtain ⟨h1, h8, -⟩ | ⟨h1, h8, -⟩ | ⟨-, he⟩ := exec_crcVerify_cases len s
  · omega
  · omega
  · exact he

end Sys2Proof.Machine
end

section
/-! PROOFS. The form crc_bytes (30_encoding.md R47, 40_checksum.md R54). -/

namespace Sys2Proof.Machine

/-! ### Commands written to CMD -/

/-- A command written to CMD by name is executed (30_encoding.md R47, 43_control.md R100). -/
theorem hostOp_cmdOp {i : Instr} {s : State} (hi : i.WellFormed) (hr : s.resetIn = false) :
    hostOp (cmdOp i) s = exec i s := by
  calc hostOp (cmdOp i) s
    _ = execute (encode i) s := memWrite_admitted _ hr (admittedSlot_reg .cmd)
    _ = exec i s := by rw [execute, decodeOfEncodeIsTheCommand i hi]

/-- Commands written to CMD one after the other are executed one after the other. -/
theorem runOps_cmdOps (cmds : List Instr) {s : State} (hc : ∀ i ∈ cmds, i.WellFormed) (hr : s.resetIn = false) :
    runOps (cmds.map cmdOp) s = execAll cmds s := by
  induction cmds generalizing s with
  | nil => rfl
  | cons i cmds ih =>
    obtain ⟨hi, hcmds⟩ := List.forall_mem_cons.mp hc
    obtain ⟨t, ht⟩ := exec_completes i s
    obtain ⟨-, hrt, -⟩ := registersAreWrittenOnlyByTheListedCommands i s t ht
    have hop : hostOp (cmdOp i) s = .next t := (hostOp_cmdOp hi hr).trans ht
    rw [List.map_cons, runOps_cons_of_next hop, execAll_cons ht]
    exact ih hcmds (hrt.trans hr)

theorem expand_crcBytes (bytes : List Byte) :
    (HostForm.crcBytes bytes).expand = (.crcInit :: bytes.map .crcFeed : List Instr).map cmdOp := by
  rw [List.map_cons, List.map_map]
  rfl

/-- Settles O25: the accesses of crc_bytes are commands written to CMD, and executed they leave the checksum. -/
theorem streamedBytesGiveTheirChecksum : Obligations.StreamedBytesGiveTheirChecksum := by
  intro bytes s hr
  have hwf : ∀ i ∈ (.crcInit :: bytes.map .crcFeed : List Instr), i.WellFormed := by
    simp [Instr.WellFormed, Instr.wellFormed]
  rw [expand_crcBytes, runOps_cmdOps _ hwf hr, execAll_crcInit_crcFeeds]

end Sys2Proof.Machine
end

section
/-! PROOFS. The fields of a frame and its bytes 0 to 5 are the same data (41_frame_codec.md R71, R74, R76). -/

namespace Sys2Proof.Machine

/-! ### The frame of a reading -/

/-- Byte 3 of a frame holds the last 4 bits of H above the first 4 bits of T (41_frame_codec.md R74). -/
theorem sharedByte_eq_ofNat (H T : BitVec 20) :
    H.extractLsb' 0 4 ++ T.extractLsb' 16 4 = BitVec.ofNat 8 (H.toNat % 16 * 16 + T.toNat / 65536) := by
  have hT := T.isLt
  apply BitVec.eq_of_toNat_eq
  rw [BitVec.toNat_append, ← Nat.shiftLeft_add_eq_or_of_lt (BitVec.isLt _), BitVec.toNat_ofNat]
  simp only [BitVec.extractLsb'_toNat, Nat.shiftLeft_eq, Nat.shiftRight_eq_div_pow]
  omega

theorem State.bufBytes_encodeFields (s : State) (r : Reading) :
    (s.encodeFields r).bufBytes 6 = frameBytes r.status r.hum.toNat r.temp.toNat := by
  simp only [State.bufBytes, State.buf_encodeFields, Fin.reduceEq, if_true, if_false, sharedByte_eq_ofNat]
  simp [frameBytes, BitVec.extractLsb', Nat.shiftRight_eq_div_pow]

/-- The first six bytes of any buffer are the frame of the fields decoded from it. -/
theorem State.bufBytes_eq_frameBytes (s : State) :
    s.bufBytes 6 = frameBytes s.decodeFields.status s.decodeFields.hum.toNat s.decodeFields.temp.toNat := by
  have h1 := (s.buf 1).isLt; have h2 := (s.buf 2).isLt; have h3 := (s.buf 3).isLt
  have h4 := (s.buf 4).isLt; have h5 := (s.buf 5).isLt
  rw [State.decodeFields_hum_toNat, State.decodeFields_temp_toNat]
  simp only [State.bufBytes, List.take_succ_cons, List.take_zero, frameBytes, State.decodeFields, State.frameHum,
    State.frameTemp, List.cons.injEq, ← BitVec.toNat_inj, BitVec.toNat_ofNat, true_and, and_true]
  omega

theorem State.frameHum_encodeFields (s : State) (r : Reading) : (s.encodeFields r).frameHum = r.hum.toNat := by
  have hH := r.hum.isLt; have hT := r.temp.isLt
  simp only [State.frameHum, State.buf_encodeFields, Fin.reduceEq, if_true, if_false, sharedByte_eq_ofNat,
    BitVec.extractLsb'_toNat, BitVec.toNat_ofNat, Nat.shiftRight_eq_div_pow]
  omega

theorem State.frameTemp_encodeFields (s : State) (r : Reading) : (s.encodeFields r).frameTemp = r.temp.toNat := by
  have hT := r.temp.isLt
  simp only [State.frameTemp, State.buf_encodeFields, Fin.reduceEq, if_true, if_false, sharedByte_eq_ofNat,
    BitVec.extractLsb'_toNat, BitVec.toNat_ofNat, Nat.shiftRight_eq_div_pow]
  omega

/-! ### Bytes and sequences of bytes -/

theorem State.bufBytes_getD (s : State) (i : Fin 8) {n : Nat} (h : i.val < n) :
    (s.bufBytes n).getD i.val 0 = s.buf i := by
  rw [State.bufBytes, List.getD_eq_getElem?_getD, List.getElem?_take_of_lt h]
  fin_cases i <;> rfl

/-- The first `n` bytes are the same exactly when they are the same one by one. -/
theorem State.bufBytes_eq_iff {s t : State} {n : Nat} (hn : n ≤ 8) :
    t.bufBytes n = s.bufBytes n ↔ ∀ i : Fin 8, i.val < n → t.buf i = s.buf i := by
  refine ⟨fun h i hi => ?_, State.bufBytes_congr hn⟩
  rw [← t.bufBytes_getD i hi, ← s.bufBytes_getD i hi, h]

/-- `encode_fields` writes the frame to bytes 0 to 5 and keeps bytes 6 and 7 (41_frame_codec.md R74). -/
theorem State.buf_encodeFields_eq (s : State) (r : Reading) (i : Fin 8) :
    (s.encodeFields r).buf i =
      if i.val < 6 then (frameBytes r.status r.hum.toNat r.temp.toNat).getD i.val 0 else s.buf i := by
  split
  · next h => rw [← s.bufBytes_encodeFields r, State.bufBytes_getD _ i h]
  · next h =>
    obtain rfl | rfl : i = 6 ∨ i = 7 := by omega
    · exact s.buf_encodeFields 6 r
    · exact s.buf_encodeFields 7 r

/-! ### The two maps are inverse -/

theorem Reading.eq_of_toNat_eq {q r : Reading} (hs : q.status = r.status) (hH : q.hum.toNat = r.hum.toNat)
    (hT : q.temp.toNat = r.temp.toNat) : q = r := by
  cases q
  cases r
  rw [Reading.mk.injEq]
  exact ⟨hs, BitVec.eq_of_toNat_eq hH, BitVec.eq_of_toNat_eq hT⟩

theorem State.decodeFields_encodeFields (s : State) (r : Reading) : (s.encodeFields r).decodeFields = r := by
  apply Reading.eq_of_toNat_eq
  · exact s.buf_encodeFields 0 r
  · rw [State.decodeFields_hum_toNat, State.frameHum_encodeFields]
  · rw [State.decodeFields_temp_toNat, State.frameTemp_encodeFields]

/-- `encode_fields` writes nothing but the buffer. -/
theorem State.encodeFields_with_buf (s : State) (r : Reading) :
    { s.encodeFields r with buf0 := s.buf0, buf1 := s.buf1 } = s := by
  rw [State.encodeFields_frame]

theorem State.encodeFields_decodeFields (s : State) : s.encodeFields s.decodeFields = s := by
  have h6 : (s.encodeFields s.decodeFields).bufBytes 6 = s.bufBytes 6 := by
    rw [State.bufBytes_encodeFields, ← State.bufBytes_eq_frameBytes]
  refine State.ext_buf (fun i => ?_) (s.encodeFields_with_buf _)
  by_cases hi : i.val < 6
  · exact (State.bufBytes_eq_iff (by decide)).mp h6 i hi
  · rw [State.buf_encodeFields_eq, if_neg hi]

/-- Two buffers hold the same fields exactly when they hold the same first six bytes. -/
theorem State.decodeFields_eq_iff {s t : State} :
    t.decodeFields = s.decodeFields ↔ ∀ i : Fin 8, i.val < 6 → t.buf i = s.buf i := by
  refine ⟨fun h => ?_, State.decodeFields_congr⟩
  rw [← State.bufBytes_eq_iff (by decide), State.bufBytes_eq_frameBytes, State.bufBytes_eq_frameBytes, h]

/-- Settles O43: the bytes are the frame of the fields, and the fields of that frame are the reading. -/
theorem fieldsAndFrameBytesAreInverse : Obligations.FieldsAndFrameBytesAreInverse :=
  fun s r => ⟨s.decodeFields_encodeFields r, s.encodeFields_decodeFields, fun _ => State.decodeFields_eq_iff.symm⟩

end Sys2Proof.Machine
end

section
/-! PROOFS. UNPACK: what it decodes, when it raises, and that it does not see STAT_BYTE
(41_frame_codec.md R72, R73; 40_checksum.md R57). -/

namespace Sys2Proof.Machine

/-! ### What a frame command comes to, by the length and the gate -/

theorem frameLenAccepts_iff {len : Nat} : frameLenAccepts len = true ↔ len = 6 ∨ len = 7 := decide_eq_true_iff

section

variable {len : Nat} {s : State} (accept : State → State)

theorem withFrame_of_passes (hlen : len = 6 ∨ len = 7) (hpass : (s.gateCrc len).gatePasses len = true) :
    withFrame len s accept = .next { accept ((s.gateCrc len).setReading s.decodeFields) with err := 0 } := by
  rw [withFrame, if_pos (frameLenAccepts_iff.mpr hlen), if_pos hpass]
  rfl

theorem withFrame_of_not_passes (hlen : len = 6 ∨ len = 7) (hpass : (s.gateCrc len).gatePasses len = false) :
    withFrame len s accept = .next { (s.gateCrc len).invalidate with err := 4 } := by
  rw [withFrame, if_pos (frameLenAccepts_iff.mpr hlen), if_neg (Bool.eq_false_iff.mp hpass)]
  rfl

theorem withFrame_of_not_frameLen (hlen : ¬(len = 6 ∨ len = 7)) :
    withFrame len s accept = .next { s.invalidate with err := 3 } := by
  rw [withFrame, if_neg (mt frameLenAccepts_iff.mp hlen)]
  rfl

end

/-- A 7-byte frame passes a disabled gate, and with its right checksum any gate (40_checksum.md R57). -/
theorem State.gatePasses_seven_iff (s : State) :
    (s.gateCrc 7).gatePasses 7 = true ↔ s.crcEn = false ∨ s.buf 6 = crc8 (s.bytesUpTo 6) := by
  rw [State.gatePasses_seven, s.bufBytes_eq_bytesUpTo (by decide), Bool.or_eq_true, Bool.not_eq_true', beq_iff_eq,
    eq_comm (a := crc8 _)]

/-! ### The result of UNPACK -/

/-- The raw registers take the fields of R71, as numbers. -/
theorem State.setReading_decodeFields (s u : State) :
    u.setReading s.decodeFields =
      { u with
        statByte := s.buf 0, humRaw := BitVec.ofNat 32 s.frameHum, tempRaw := BitVec.ofNat 32 s.frameTemp } := by
  rw [← s.decodeFields_hum_toNat, ← s.decodeFields_temp_toNat, BitVec.ofNat_toNat, BitVec.ofNat_toNat]
  rfl

/-- Settles O31: the gate decides between the two outcomes of a frame length, and any other length is refused. -/
theorem unpackDecodesTheFrameOrRaises : Obligations.UnpackDecodesTheFrameOrRaises := by
  refine ⟨fun len h => decode_of_eq_sum (decide_eq_true h) (by simp [commandFields]), fun s hen => ?pass6,
    fun s hpass => ?pass7, fun s hen => ?fail6, fun s hen hcrc => ?fail7, fun s len h6 h7 => ?length⟩
  case pass6 =>
    have hpass : (s.gateCrc 6).gatePasses 6 = true := by rw [s.gatePasses_six, hen]; rfl
    rw [exec_unpack, withFrame_of_passes _ (.inl rfl) hpass, State.setReading_decodeFields]
    rfl
  case pass7 =>
    rw [exec_unpack, withFrame_of_passes _ (.inr rfl) (s.gatePasses_seven_iff.mpr hpass),
      State.setReading_decodeFields, State.gateCrc_seven, s.bufBytes_eq_bytesUpTo (by decide)]
    rfl
  case fail6 =>
    have hpass : (s.gateCrc 6).gatePasses 6 = false := by rw [s.gatePasses_six, hen]; rfl
    rw [exec_unpack, withFrame_of_not_passes _ (.inl rfl) hpass]
    rfl
  case fail7 =>
    have hpass : (s.gateCrc 7).gatePasses 7 = false := by
      rw [Bool.eq_false_iff, ne_eq, s.gatePasses_seven_iff, hen]
      simpa using hcrc
    rw [exec_unpack, withFrame_of_not_passes _ (.inr rfl) hpass, State.gateCrc_seven,
      s.bufBytes_eq_bytesUpTo (by decide)]
    rfl
  case length =>
    rw [exec_unpack, withFrame_of_not_frameLen _ (by omega)]
    rfl

/-! ### STAT_BYTE -/

/-- The state with STAT_BYTE at the given value. -/
def State.withStatByte (b : Byte) (s : State) : State := { s with statByte := b }

theorem withStatByte_passesCrcAndErr (b : Byte) : PassesCrcAndErr (State.withStatByte b) where
  crc _ _ := rfl
  err _ _ := rfl

/-- A frame command overwrites STAT_BYTE or leaves it alone, and does not read it. -/
theorem withFrame_withStatByte (len : Nat) (s : State) (b : Byte) (accept : State → State) :
    withFrame len (s.withStatByte b) accept = withFrame len s accept ∨
    withFrame len (s.withStatByte b) accept = mapNext (State.withStatByte b) (withFrame len s accept) := by
  by_cases hlen : len = 6 ∨ len = 7
  · cases hpass : (s.gateCrc len).gatePasses len with
    | true =>
      left
      rw [withFrame_of_passes accept hlen hpass]
      exact withFrame_of_passes accept hlen hpass
    | false =>
      right
      rw [withFrame_of_not_passes accept hlen hpass]
      exact withFrame_of_not_passes accept hlen hpass
  · right
    rw [withFrame_of_not_frameLen (s := s) accept hlen]
    exact withFrame_of_not_frameLen accept hlen

/-- Every command but PACK goes the same way whatever STAT_BYTE holds. -/
theorem exec_withStatByte {i : Instr} (s : State) (b : Byte) (hp : ∀ len, i ≠ .pack len) :
    exec i (s.withStatByte b) = exec i s ∨
    exec i (s.withStatByte b) = mapNext (State.withStatByte b) (exec i s) := by
  have hf := withStatByte_passesCrcAndErr b
  cases i with
  | pack len => exact absurd rfl (hp len)
  | nop | crcInit | crcFeed data | packMeasureCmd | packInitCmd | convHum | convTemp => exact .inr rfl
  | crcBuf len => exact .inr (exec_crcBuf_unseen hf s len fun _ => rfl)
  | crcVerify len => exact .inr (exec_crcVerify_unseen hf s len (fun _ => rfl) fun _ _ => rfl)
  | unpack len => exact withFrame_withStatByte len s b _
  | unpackConvert len => rw [exec_unpackConvert, exec_unpackConvert]; exact withFrame_withStatByte len s b _

/-- Settles O52: the two next states are the same, or the same but for STAT_BYTE. -/
theorem onlyPackReadsStatByte : Obligations.OnlyPackReadsStatByte := by
  intro i s t b hp h
  obtain hsame | hcomm := exec_withStatByte s b hp
  · exact ⟨t, hsame.trans h, rfl⟩
  · rw [h] at hcomm
    exact ⟨t.withStatByte b, hcomm, rfl⟩

end Sys2Proof.Machine
end

section
/-! PROOFS. PACK and the two fixed command frames: the bytes they write and all they keep
(41_frame_codec.md R74, R75, R77, R78). -/

namespace Sys2Proof.Machine

/-! ### The raw registers as a reading -/

theorem fitsField_iff (raw : Word) : fitsField raw = true ↔ raw.toNat < 2 ^ 20 := by
  have := raw.isLt
  rw [fitsField, beq_iff_eq, ← BitVec.toNat_inj, BitVec.extractLsb'_toNat, Nat.shiftRight_eq_div_pow]
  simp only [BitVec.ofNat_eq_ofNat, BitVec.toNat_ofNat]
  omega

theorem fitsFields_iff (s : State) :
    (fitsField s.humRaw && fitsField s.tempRaw) = true ↔ s.humRaw.toNat < 2 ^ 20 ∧ s.tempRaw.toNat < 2 ^ 20 := by
  rw [Bool.and_eq_true, fitsField_iff, fitsField_iff]

/-- A raw value that fits is its low 20 bits. -/
theorem lowTwenty_toNat {raw : Word} (h : raw.toNat < 2 ^ 20) : (raw.extractLsb' 0 20).toNat = raw.toNat := by
  rw [BitVec.extractLsb'_toNat, Nat.shiftRight_zero, Nat.mod_eq_of_lt h]

/-! ### The outcomes of PACK -/

section

variable {s : State} (hH : s.humRaw.toNat < 2 ^ 20) (hT : s.tempRaw.toNat < 2 ^ 20)
include hH hT

theorem exec_pack_six : exec (.pack 6) s = .next { s.encodeFields s.rawReading with err := 0 } := by
  rw [exec, execPack, (fitsFields_iff s).mpr ⟨hH, hT⟩]
  rfl

theorem exec_pack_seven :
    exec (.pack 7) s = .next { (s.encodeFields s.rawReading).sealFrame with err := 0 } := by
  rw [exec, execPack, (fitsFields_iff s).mpr ⟨hH, hT⟩]
  rfl

/-- The frame of the raw registers, written out. -/
theorem frameBytes_rawReading :
    frameBytes s.rawReading.status s.rawReading.hum.toNat s.rawReading.temp.toNat =
      frameBytes s.statByte s.humRaw.toNat s.tempRaw.toNat :=
  congrArg₂ (frameBytes s.statByte) (lowTwenty_toNat hH) (lowTwenty_toNat hT)

end

theorem exec_pack_of_too_large {len : Nat} {s : State} (hlen : len = 6 ∨ len = 7)
    (hraw : 2 ^ 20 ≤ s.humRaw.toNat ∨ 2 ^ 20 ≤ s.tempRaw.toNat) :
    exec (.pack len) s = .next { s with err := 2 } := by
  obtain ⟨-, hf, -⟩ | ⟨-, hf, -⟩ | ⟨-, -, he⟩ | ⟨hn, -⟩ := exec_pack_cases len s
  · have := (fitsFields_iff s).mp hf; omega
  · have := (fitsFields_iff s).mp hf; omega
  · exact he
  · exact absurd hlen hn

theorem exec_pack_of_not_frameLen {len : Nat} (s : State) (hlen : ¬(len = 6 ∨ len = 7)) :
    exec (.pack len) s = .next { s with err := 3 } := by
  rw [exec, execPack, if_neg (mt frameLenAccepts_iff.mp hlen)]
  rfl

/-- Sealing writes CRC and the buffer alone. -/
theorem State.sealFrame_with_buf {s u : State} (h : { u with buf0 := s.buf0, buf1 := s.buf1 } = s) :
    { u.sealFrame with buf0 := s.buf0, buf1 := s.buf1 } = { s with crc := crc8 (u.bufBytes 6) } :=
  congrArg (fun v : State => { v with crc := crc8 (u.bufBytes 6) }) h

/-- A sealed frame: the reading in bytes 0 to 5, its checksum in byte 6, byte 7 as it was (41_frame_codec.md R75). -/
theorem State.buf_sealFrame_encodeFields (s : State) (r : Reading) (i : Fin 8) :
    let bytes := frameBytes r.status r.hum.toNat r.temp.toNat
    (s.encodeFields r).sealFrame.buf i =
      if i.val < 6 then bytes.getD i.val 0 else if i.val = 6 then crc8 bytes else s.buf i := by
  intro bytes
  rw [State.buf_sealFrame, State.bufBytes_encodeFields, State.buf_encodeFields_eq]
  by_cases h6 : i = 6
  · subst h6; rfl
  · have hval : i.val ≠ 6 := fun h => h6 (Fin.ext h)
    rw [if_neg h6, if_neg hval]

/-- Settles O32: PACK writes the frame of the raw registers, sealed at LEN 7, when first the length and then the
range allow it. -/
theorem packBuildsTheFrameOrRaises : Obligations.PackBuildsTheFrameOrRaises := by
  refine ⟨fun len h => decode_of_eq_sum (decide_eq_true h) (by simp [commandFields]), fun s hH hT => ?frame,
    fun s len => exec_pack_of_too_large, fun s len h6 h7 => exec_pack_of_not_frameLen s (by omega)⟩
  case frame =>
    rw [← frameBytes_rawReading hH hT]
    refine ⟨⟨_, exec_pack_six hH hT, fun i => ?_, ?_⟩, ⟨_, exec_pack_seven hH hT, fun i => ?_, ?_⟩⟩
    · rw [State.buf_with_err, State.buf_encodeFields_eq]
    · exact congrArg (fun u : State => { u with err := 0 }) (s.encodeFields_with_buf _)
    · rw [State.buf_with_err, State.buf_sealFrame_encodeFields]
    · rw [← s.bufBytes_encodeFields]
      exact congrArg (fun u : State => { u with err := 0 }) (State.sealFrame_with_buf (s.encodeFields_with_buf _))

/-! ### The fixed command frames -/

/-- A word with its low three bytes replaced, byte by byte. -/
theorem byteOf_withLowBytes (w : Word) {low k : Nat} (hlow : low < 2 ^ 24) (hk : k < 4) :
    byteOf (withLowBytes w 3 low) k = if k < 3 then BitVec.ofNat 8 (low / 256 ^ k) else byteOf w k := by
  have hw := w.isLt
  apply BitVec.eq_of_toNat_eq
  rw [apply_ite BitVec.toNat, byteOf_toNat, byteOf_toNat, withLowBytes, BitVec.toNat_ofNat, BitVec.toNat_ofNat]
  interval_cases k <;> simp only [Nat.reduceLT, Nat.reducePow, if_true, if_false] <;> omega

theorem eq_ofNat_of_toNat_eq_mod {b : Byte} {n : Nat} (h : b.toNat = n % 256) : b = BitVec.ofNat 8 n :=
  BitVec.eq_of_toNat_eq (h.trans (BitVec.toNat_ofNat n 8).symm)

/-- The three bytes of a command frame, as one number in BUF0 (41_frame_codec.md R77, R78). -/
theorem State.setCommandFrame_eq (s : State) (b0 b1 b2 : Byte) :
    s.setCommandFrame b0 b1 b2 =
      { s with buf0 := withLowBytes s.buf0 3 (b0.toNat + b1.toNat * 256 + b2.toNat * 65536) } := by
  have h0 := b0.isLt; have h1 := b1.isLt; have h2 := b2.isLt
  have hbuf0 : (s.setCommandFrame b0 b1 b2).buf0 =
      withLowBytes s.buf0 3 (b0.toNat + b1.toNat * 256 + b2.toNat * 65536) := by
    apply word_eq_of_bytes
    intro k hk
    have hbyte : byteOf (s.setCommandFrame b0 b1 b2).buf0 k = (s.setCommandFrame b0 b1 b2).buf ⟨k, by omega⟩ :=
      (if_pos hk).symm
    rw [hbyte, State.buf_setCommandFrame, byteOf_withLowBytes _ (by omega) hk]
    interval_cases k <;>
      simp only [Fin.mk_zero, Fin.mk_one, Fin.reduceFinMk, Fin.reduceEq, Nat.reduceLT, if_true, if_false]
    · exact eq_ofNat_of_toNat_eq_mod (by omega)
    · exact eq_ofNat_of_toNat_eq_mod (by omega)
    · exact eq_ofNat_of_toNat_eq_mod (by omega)
    · rfl
  rw [← hbuf0]
  rfl

/-- Settles O33: the word is OP 7 with every other field 0, and the frame is AC 33 00. -/
theorem packMeasureCmdWritesItsThreeBytes : Obligations.PackMeasureCmdWritesItsThreeBytes :=
  ⟨decode_of_eq_sum (i := .packMeasureCmd) rfl rfl, fun s => by
    rw [exec_packMeasureCmd, State.setCommandFrame_eq]; rfl⟩

/-- Settles O34: the word is OP 8 with every other field 0, and the frame is BE 08 00. -/
theorem packInitCmdWritesItsThreeBytes : Obligations.PackInitCmdWritesItsThreeBytes :=
  ⟨decode_of_eq_sum (i := .packInitCmd) rfl rfl, fun s => by
    rw [exec_packInitCmd, State.setCommandFrame_eq]; rfl⟩

end Sys2Proof.Machine
end

section
/-! PROOFS. PACK and UNPACK undo each other (41_frame_codec.md R76 laws 1 to 3). -/

namespace Sys2Proof.Machine

/-! ### PACK, then UNPACK -/

/-- Sealing a frame leaves its bytes 0 to 5 alone. -/
theorem State.buf_sealFrame_of_lt (u : State) {i : Fin 8} (h : i.val < 6) : u.sealFrame.buf i = u.buf i := by
  rw [State.buf_sealFrame, if_neg (by rintro rfl; exact absurd h (by decide))]

theorem State.decodeFields_sealFrame (u : State) : u.sealFrame.decodeFields = u.decodeFields :=
  State.decodeFields_congr fun _ => u.buf_sealFrame_of_lt

/-- A sealed frame has the right checksum. -/
theorem State.sealFrame_checksum (u : State) : u.sealFrame.buf 6 = crc8 (u.sealFrame.bytesUpTo 6) := by
  rw [← State.bufBytes_eq_bytesUpTo _ (by decide), State.bufBytes_congr (by decide) fun _ => u.buf_sealFrame_of_lt]
  exact u.buf_sealFrame 6

/-- What UNPACK finds after a successful PACK: the reading of the raw registers, which fit their fields, and at
LEN 7 its checksum behind it. -/
theorem pack_succeeded {len : Nat} {s t : State} (h : exec (.pack len) s = .next t) (herr : t.err = 0) :
    (len = 6 ∨ len = 7) ∧ (s.humRaw.toNat < 2 ^ 20 ∧ s.tempRaw.toNat < 2 ^ 20) ∧ t.crcEn = s.crcEn ∧
      t.decodeFields = s.rawReading ∧ (len = 7 → t.buf 6 = crc8 (t.bytesUpTo 6)) := by
  have hen := s.encodeFields_crcEn s.rawReading
  have hfields := s.decodeFields_encodeFields s.rawReading
  have hcases := exec_pack_cases len s
  generalize s.encodeFields s.rawReading = u at hen hfields hcases
  obtain ⟨hlen, hf, he⟩ | ⟨hlen, hf, he⟩ | ⟨-, -, he⟩ | ⟨-, he⟩ := hcases <;> rw [he] at h <;> cases h
  · exact ⟨.inl hlen, (fitsFields_iff s).mp hf, hen, hfields, fun h7 => by omega⟩
  · exact ⟨.inr hlen, (fitsFields_iff s).mp hf, hen, u.decodeFields_sealFrame.trans hfields,
      fun _ => u.sealFrame_checksum⟩
  · exact absurd herr (by decide : (2#4) ≠ 0)
  · exact absurd herr (by decide : (3#4) ≠ 0)

/-- A raw value that fits comes back from its field. -/
theorem setWidth_lowTwenty {raw : Word} (h : raw.toNat < 2 ^ 20) : (raw.extractLsb' 0 20).setWidth 32 = raw := by
  apply BitVec.eq_of_toNat_eq
  rw [BitVec.toNat_setWidth_of_le (by decide), lowTwenty_toNat h]

/-- The gate passes a packed frame unless it is enabled and the frame has no checksum. -/
theorem State.gatePasses_iff_of_checksum {len : Nat} (s : State) (hlen : len = 6 ∨ len = 7)
    (hcrc : len = 7 → s.buf 6 = crc8 (s.bytesUpTo 6)) :
    (s.gateCrc len).gatePasses len = true ↔ len = 7 ∨ s.crcEn = false := by
  obtain rfl | rfl := hlen
  · simp [-State.gateCrc_six, s.gatePasses_six]
  · simp [s.gatePasses_seven_iff, hcrc rfl]

/-- Settles O41: the fields UNPACK decodes are the reading PACK encoded, and the checksum is the one PACK wrote. -/
theorem packThenUnpackRestoresTheReading : Obligations.PackThenUnpackRestoresTheReading := by
  intro s t len h herr
  obtain ⟨hlen, ⟨hH, hT⟩, hen, hfields, hcrc⟩ := pack_succeeded h herr
  -- The gate and the fields do not see the cleared raw registers.
  have hgate := State.gatePasses_iff_of_checksum { t with statByte := 0, humRaw := 0, tempRaw := 0 } hlen hcrc
  rw [exec_unpack]
  by_cases hpass : len = 7 ∨ s.crcEn = false
  · refine ⟨_, withFrame_of_passes _ hlen (hgate.mpr (by rwa [← hen] at hpass)),
      fun _ => ⟨rfl, rfl, ?_, ?_, ?_⟩, fun h6 h1 => ?_⟩
    · exact congrArg Reading.status hfields
    · exact (congrArg (·.hum.setWidth 32) hfields).trans (setWidth_lowTwenty hH)
    · exact (congrArg (·.temp.setWidth 32) hfields).trans (setWidth_lowTwenty hT)
    · simp [h6, h1] at hpass
  · refine ⟨_, withFrame_of_not_passes _ hlen (Bool.eq_false_iff.mpr (mt hgate.mp (by rwa [← hen] at hpass))),
      fun hp => absurd hp hpass, fun _ _ => ⟨rfl, rfl⟩⟩

/-! ### UNPACK, then PACK -/

theorem State.rawReading_setReading (u : State) (r : Reading) : (u.setReading r).rawReading = r := by
  apply Reading.eq_of_toNat_eq
  · rfl
  · exact (lowTwenty_toNat (setWidth_20_lt r.hum)).trans (BitVec.toNat_setWidth_of_le (by decide))
  · exact (lowTwenty_toNat (setWidth_20_lt r.temp)).trans (BitVec.toNat_setWidth_of_le (by decide))

/-- What PACK finds after a successful UNPACK: the buffer as it was, and its fields in the raw registers. -/
theorem unpack_succeeded {len : Nat} {s t : State} (h : exec (.unpack len) s = .next t) (herr : t.err = 0) :
    (len = 6 ∨ len = 7) ∧ (t.humRaw.toNat < 2 ^ 20 ∧ t.tempRaw.toNat < 2 ^ 20) ∧
      t.rawReading = s.decodeFields ∧ ∀ i, t.buf i = s.buf i := by
  rw [exec_unpack] at h
  obtain ⟨hlen, -, he⟩ | ⟨-, -, he⟩ | ⟨-, he⟩ := withFrame_cases len s State.flagsUnpacked <;>
    rw [he] at h <;> cases h
  · exact ⟨frameLenAccepts_iff.mp hlen, ⟨setWidth_20_lt _, setWidth_20_lt _⟩,
      State.rawReading_setReading s s.decodeFields, fun _ => rfl⟩
  · exact absurd herr (by decide : (4#4) ≠ 0)
  · exact absurd herr (by decide : (3#4) ≠ 0)

/-- Sealing a frame that has its right checksum keeps every byte. -/
theorem State.buf_sealFrame_of_checksum {u : State} (h : u.buf 6 = crc8 (u.bytesUpTo 6)) (i : Fin 8) :
    u.sealFrame.buf i = u.buf i := by
  rw [State.buf_sealFrame, u.bufBytes_eq_bytesUpTo (by decide), ← h]
  exact ite_eq_right_iff.mpr fun hi => hi ▸ rfl

/-- Settles O42: PACK encodes the very fields UNPACK decoded, and at LEN 7 writes the right checksum behind them. -/
theorem unpackThenPackKeepsTheBuffer : Obligations.UnpackThenPackKeepsTheBuffer := by
  intro s t len h herr
  obtain ⟨hlen, ⟨hH, hT⟩, hraw, hbuf⟩ := unpack_succeeded h herr
  have hkept : t.encodeFields t.rawReading = t := by
    rw [hraw, ← State.decodeFields_congr fun i _ => hbuf i, State.encodeFields_decodeFields]
  obtain rfl | rfl := hlen
  · have hpack := exec_pack_six hH hT
    rw [hkept] at hpack
    exact ⟨_, hpack, rfl, fun i _ => hbuf i, fun _ =>
      ⟨State.buf0_eq_of_bytes fun i _ => hbuf i, State.buf1_eq_of_bytes fun i _ => hbuf i⟩⟩
  · have hpack := exec_pack_seven hH hT
    rw [hkept] at hpack
    refine ⟨_, hpack, rfl, fun i hi => ?_, fun hright => ?_⟩
    · rw [State.buf_with_err, State.buf_sealFrame, if_neg (mt (congrArg Fin.val) hi), hbuf]
    · have hright : t.buf 6 = crc8 (t.bytesUpTo 6) := by
        rw [hbuf, ← t.bufBytes_eq_bytesUpTo (by decide), State.bufBytes_congr (by decide) fun i _ => hbuf i,
          s.bufBytes_eq_bytesUpTo (by decide)]
        exact hright.resolve_left (by decide)
      have hall : ∀ i, t.sealFrame.buf i = s.buf i := fun i =>
        (State.buf_sealFrame_of_checksum hright i).trans (hbuf i)
      exact ⟨State.buf0_eq_of_bytes fun i _ => hall i, State.buf1_eq_of_bytes fun i _ => hall i⟩

end Sys2Proof.Machine
end

section
/-! PROOFS. `to_binary64` is exact, and so are the humidity and the temperature it encodes
(42_unit_converter.md R90 to R94). -/

namespace Sys2Proof.Machine

/-! ### The value of a result's word (42_unit_converter.md R90) -/

/-- A word of a normal number stands for its significand, the leading 1 put back, times a power of 2. -/
theorem binary64Value_of_normal {x : BitVec 64} (hlo : 1 ≤ (x.extractLsb' 52 11).toNat)
    (hhi : (x.extractLsb' 52 11).toNat ≤ 2046) :
    binary64Value x =
      let mag : ℚ := ((x.extractLsb' 0 52).toNat + 2 ^ 52 : Nat) * 2 ^ (((x.extractLsb' 52 11).toNat : Int) - 1075)
      some (if x.getLsbD 63 then -mag else mag) := by
  have h0 : (x.extractLsb' 52 11).toNat ≠ 0 := by omega
  have h2047 : (x.extractLsb' 52 11).toNat ≠ 2047 := by omega
  simp only [binary64Value, if_neg h0, if_neg h2047, Nat.cast_add, Nat.cast_pow, Nat.cast_ofNat, add_comm]

/-- Shifting |N| to place 52 and scaling by E undo each other, up to the 20 places of the divisor 2^20. -/
theorem significand_mul_scale (m : Nat) {k : Nat} (hk : k ≤ 52) :
    ((m * 2 ^ (52 - k) : Nat) : ℚ) * 2 ^ (((k + 1003 : Nat) : Int) - 1075) = m / 2 ^ 20 := by
  have hexp : ((52 - k : Nat) : Int) + (((k + 1003 : Nat) : Int) - 1075) = -((20 : Nat) : Int) := by omega
  have hscale : (2 : ℚ) ^ (52 - k) * 2 ^ (((k + 1003 : Nat) : Int) - 1075) = (2 ^ 20)⁻¹ := by
    rw [← zpow_natCast, ← zpow_add₀ two_ne_zero, hexp, zpow_neg, zpow_natCast]
  rw [Nat.cast_mul, Nat.cast_pow, Nat.cast_ofNat, mul_assoc, hscale, div_eq_mul_inv]

/-- A sign and a magnitude make the integer. -/
theorem signed_natAbs_div (N : Int) (d : ℚ) :
    (if N < 0 then -((N.natAbs : ℚ) / d) else (N.natAbs : ℚ) / d) = N / d := by
  rw [Nat.cast_natAbs]
  split
  · next h => rw [abs_of_neg h, Int.cast_neg, neg_div, neg_neg]
  · next h => rw [abs_of_nonneg (not_lt.mp h)]

theorem binary64Value_zero : binary64Value 0 = some 0 := by
  simp [binary64Value]

/-- Settles O39: +0.0 is 0, and any other result is a normal word whose three fields multiply out to N / 2^20. -/
theorem toBinary64IsExact : Obligations.ToBinary64IsExact := by
  intro N h
  by_cases h0 : N = 0
  · subst h0
    exact ⟨by rw [toBinary64_zero, binary64Value_zero, Int.cast_zero, zero_div], .inl toBinary64_zero⟩
  · obtain ⟨hk, -, -⟩ := shifted_bounds (Int.natAbs_ne_zero.mpr h0) h
    have hE := toBinary64_exponent h0 h
    have hlo : 1 ≤ ((toBinary64 N).extractLsb' 52 11).toNat := by omega
    have hhi : ((toBinary64 N).extractLsb' 52 11).toNat ≤ 2046 := by omega
    refine ⟨?_, .inr ⟨hlo, hhi⟩⟩
    rw [binary64Value_of_normal hlo hhi, hE, toBinary64_sign h0 h, toBinary64_fraction h0 h,
      significand_mul_scale _ hk, ← signed_natAbs_div]
    simp only [decide_eq_true_eq]

/-! ### The converted values (42_unit_converter.md R91 to R94) -/

theorem humidityBits_exact {raw : Nat} (h : raw < 2 ^ 32) :
    binary64Value (humidityBits raw) = some ((raw : ℚ) * 100 / 2 ^ 20) ∧ normalOrPlusZero (humidityBits raw) := by
  have hN := toBinary64IsExact (humidityNum raw) ((humidityNum_bound h).trans (by decide))
  have hvalue : (humidityNum raw : ℚ) / 2 ^ 20 = raw * 100 / 2 ^ 20 := by
    rw [humidityNum, Int.cast_mul, Int.cast_natCast, Int.cast_ofNat]
  rwa [hvalue] at hN

theorem temperatureBits_exact {raw : Nat} (h : raw < 2 ^ 32) :
    binary64Value (temperatureBits raw) = some ((raw : ℚ) * 200 / 2 ^ 20 - 50) ∧
      normalOrPlusZero (temperatureBits raw) := by
  have hN := toBinary64IsExact (temperatureNum raw) ((temperatureNum_bound h).trans (by decide))
  have hvalue : (temperatureNum raw : ℚ) / 2 ^ 20 = raw * 200 / 2 ^ 20 - 50 := by
    rw [temperatureNum]
    push_cast
    ring
  rwa [hvalue] at hN

/-- Settles O40: both values are linear in the operand, so the bounds are those at the ends of its range. -/
theorem convertedValuesAreNotClamped : Obligations.ConvertedValuesAreNotClamped := by
  intro raw h
  refine ⟨_, _, (humidityBits_exact h).1, (temperatureBits_exact h).1, fun hle => ?_, fun hlt => ?_, fun heq => ?_⟩
  · have hle : (raw : ℚ) ≤ 0xFFFFF := by exact_mod_cast hle
    have h0 : (0 : ℚ) ≤ raw := raw.cast_nonneg
    refine ⟨?_, ?_, ?_, ?_⟩ <;> linarith
  · have hlt : (2 ^ 20 : ℚ) < raw := by exact_mod_cast hlt
    constructor <;> linarith
  · subst heq
    norm_num

end Sys2Proof.Machine
end

section
/-! PROOFS. The unit converter commands (42_unit_converter.md R95 to R97). -/

namespace Sys2Proof.Machine

/-! ### CONV_HUM and CONV_TEMP -/

/-- Settles O35: the word is OP 9 with every other field 0, and HUM_OUT takes the exact conversion of HUM_RAW. -/
theorem convHumIsExact : Obligations.ConvHumIsExact := by
  refine ⟨decode_of_eq_sum (i := .convHum) rfl rfl, fun s => ?_⟩
  obtain ⟨hvalue, hnormal⟩ := humidityBits_exact s.humRaw.isLt
  exact ⟨humidityBits s.humRaw.toNat, hvalue, hnormal, exec_convHum s⟩

/-- Settles O36: the word is OP 10 with every other field 0, and TEMP_OUT takes the exact conversion of TEMP_RAW. -/
theorem convTempIsExact : Obligations.ConvTempIsExact := by
  refine ⟨decode_of_eq_sum (i := .convTemp) rfl rfl, fun s => ?_⟩
  obtain ⟨hvalue, hnormal⟩ := temperatureBits_exact s.tempRaw.isLt
  exact ⟨temperatureBits s.tempRaw.toNat, hvalue, hnormal, exec_convTemp s⟩

/-! ### UNPACK_CONVERT by what UNPACK does from the same state -/

section

variable {s a : State} {len : Nat} (h : exec (.unpack len) s = .next a)
include h

/-- After a frame UNPACK accepts, UNPACK_CONVERT has converted the raw registers too and set OUT_VALID. -/
theorem exec_unpackConvert_of_unpack_succeeded (herr : a.err = 0) :
    exec (.unpackConvert len) s = .next { a.convertHum.convertTemp with outValid := true } := by
  rw [exec_unpack] at h
  obtain ⟨hlen, hpass, he⟩ | ⟨-, -, he⟩ | ⟨-, he⟩ := withFrame_cases len s State.flagsUnpacked <;>
    rw [he] at h <;> cases h
  · rw [exec_unpackConvert, withFrame_of_passes _ (frameLenAccepts_iff.mp hlen) hpass]
    rfl
  · exact absurd herr (by decide : (4#4) ≠ 0)
  · exact absurd herr (by decide : (3#4) ≠ 0)

/-- UNPACK_CONVERT fails as UNPACK does. -/
theorem exec_unpackConvert_of_unpack_failed (herr : a.err ≠ 0) : exec (.unpackConvert len) s = .next a := by
  rw [exec_unpack] at h
  obtain ⟨-, -, he⟩ | ⟨hlen, hpass, he⟩ | ⟨hlen, he⟩ := withFrame_cases len s State.flagsUnpacked
  · rw [he] at h
    cases h
    exact absurd rfl herr
  · rw [exec_unpackConvert, withFrame_of_not_passes _ (frameLenAccepts_iff.mp hlen) hpass, ← he, h]
  · have hlen : ¬(len = 6 ∨ len = 7) := mt frameLenAccepts_iff.mpr (Bool.eq_false_iff.mp hlen)
    rw [exec_unpackConvert, withFrame_of_not_frameLen _ hlen, ← he, h]

end

/-- Settles O38: CONV_HUM and CONV_TEMP do the two conversions UNPACK_CONVERT does, and leave OUT_VALID 0. -/
theorem unpackConvertIsUnpackThenBothConversions : Obligations.UnpackConvertIsUnpackThenBothConversions := by
  intro s a len h herr
  refine ⟨_, _, exec_convHum a, exec_convTemp _, ?_⟩
  have ha : { a with err := 0 } = a := by rw [← herr]
  rw [exec_unpackConvert_of_unpack_succeeded h herr, ← ha]
  rfl

/-- What UNPACK leaves of a frame the gate passes, at either length. -/
theorem exec_unpack_of_gate_passes {s : State} {len : Nat}
    (hpass : (len = 6 ∧ s.crcEn = false) ∨ (len = 7 ∧ (s.crcEn = false ∨ s.buf 6 = crc8 (s.bytesUpTo 6)))) :
    exec (.unpack len) s = .next { s with
      statByte := s.buf 0, humRaw := BitVec.ofNat 32 s.frameHum, tempRaw := BitVec.ofNat 32 s.frameTemp
      rawValid := true, outValid := false, crc := if len = 7 then crc8 (s.bytesUpTo 6) else s.crc, err := 0 } := by
  obtain ⟨-, hsix, hseven, -, -, -⟩ := unpackDecodesTheFrameOrRaises
  obtain ⟨rfl, hen⟩ | ⟨rfl, hgate⟩ := hpass
  · exact hsix s hen
  · exact hseven s hgate

/-- H fits the raw register. -/
theorem State.toNat_ofNat_frameHum (s : State) : (BitVec.ofNat 32 s.frameHum).toNat = s.frameHum := by
  rw [← s.decodeFields_hum_toNat, BitVec.ofNat_toNat, BitVec.toNat_setWidth_of_le (by decide)]

/-- T fits the raw register. -/
theorem State.toNat_ofNat_frameTemp (s : State) : (BitVec.ofNat 32 s.frameTemp).toNat = s.frameTemp := by
  rw [← s.decodeFields_temp_toNat, BitVec.ofNat_toNat, BitVec.toNat_setWidth_of_le (by decide)]

/-- Settles O37: it succeeds with the conversions of the fields UNPACK leaves, and fails with UNPACK's own outcomes. -/
theorem unpackConvertDecodesAndConverts : Obligations.UnpackConvertDecodesAndConverts := by
  obtain ⟨-, -, -, hsix, hseven, hlength⟩ := unpackDecodesTheFrameOrRaises
  refine ⟨fun len h => decode_of_eq_sum (decide_eq_true h) (by simp [commandFields]), fun s len hpass => ?pass,
    fun s hen => exec_unpackConvert_of_unpack_failed (hsix s hen) (by decide : (4#4) ≠ 0),
    fun s hen hcrc => exec_unpackConvert_of_unpack_failed (hseven s hen hcrc) (by decide : (4#4) ≠ 0),
    fun s len h6 h7 => exec_unpackConvert_of_unpack_failed (hlength s len h6 h7) (by decide : (3#4) ≠ 0)⟩
  case pass =>
    obtain ⟨hhum, hhumNormal⟩ := humidityBits_exact (BitVec.ofNat 32 s.frameHum).isLt
    obtain ⟨htemp, htempNormal⟩ := temperatureBits_exact (BitVec.ofNat 32 s.frameTemp).isLt
    have hconvert := exec_unpackConvert_of_unpack_succeeded (exec_unpack_of_gate_passes hpass) rfl
    refine ⟨_, _, ?_, hhumNormal, ?_, htempNormal, hconvert⟩
    · rw [hhum, s.toNat_ofNat_frameHum]
    · rw [htemp, s.toNat_ofNat_frameTemp]

end Sys2Proof.Machine
end

section
/-! PROOFS. The words that are commands and the words that are illegal (30_encoding.md R40, R44;
43_control.md R102). -/

namespace Sys2Proof.Machine

/-! ### Executing a word by what it decodes to -/

theorem execute_of_command {w : Word} {i : Instr} (h : decode w = .command i) (s : State) :
    execute w s = exec i s := by
  rw [execute, h]

theorem execute_of_illegal {w : Word} {why : IllegalReason} (h : decode w = .illegal why) (s : State) :
    execute w s = .next { s with err := 1 } := by
  rw [execute, h]
  rfl

theorem decode_illegal_iff (w : Word) : (∃ why, decode w = .illegal why) ↔ ¬∃ i, decode w = .command i := by
  cases decode w <;> simp

/-! ### Legal fields -/

/-- The OPs whose command has a LEN field (30_encoding.md R42). -/
def TakesLen (op : Nat) : Prop := op = 3 ∨ op = 4 ∨ op = 5 ∨ op = 6 ∨ op = 11

/-- OP, LEN and DATA are those of some command: OP is no reserved one, and a field OP does not take is 0. -/
def OperandsLegal (op len : BitVec 4) (data : Byte) : Prop :=
  op.toNat < 12 ∧ (len = 0 ∨ TakesLen op.toNat) ∧ (data = 0 ∨ op.toNat = 2)

/-- No ground of 30_encoding.md R44 applies: the operands are legal and the three reserved fields are 0. -/
def FieldsLegal (w : Word) : Prop :=
  OperandsLegal (fieldOp w) (fieldLen w) (fieldData w) ∧
    w.extractLsb' 4 4 = 0 ∧ w.extractLsb' 12 4 = 0 ∧ w.extractLsb' 24 8 = 0

/-- A command word has its reserved fields 0. -/
theorem fieldsLegal_commandWord {op len : BitVec 4} {data : Byte} (h : OperandsLegal op len data) :
    FieldsLegal (commandWord op len data) := by
  rw [FieldsLegal, fieldOp_commandWord, fieldLen_commandWord, fieldData_commandWord]
  refine ⟨h, ?rsv0, ?rsv1, ?rsv2⟩ <;> unfold commandWord
  case rsv0 =>
    rw [BitVec.extractLsb'_append_eq_of_le (by decide)]
    exact BitVec.extractLsb'_append_eq_right
  case rsv1 =>
    iterate 3 rw [BitVec.extractLsb'_append_eq_of_le (by decide)]
    exact BitVec.extractLsb'_append_eq_right
  case rsv2 =>
    iterate 5 rw [BitVec.extractLsb'_append_eq_of_le (by decide)]
    exact BitVec.extractLsb'_eq_self

theorem fieldsLegal_encode (i : Instr) : FieldsLegal (encode i) := by
  cases i <;> exact fieldsLegal_commandWord (by simp [OperandsLegal, TakesLen])

/-- A word with its reserved fields 0 is the command word of its operands. -/
theorem FieldsLegal.eq_commandWord {w : Word} (h : FieldsLegal w) :
    commandWord (fieldOp w) (fieldLen w) (fieldData w) = w := by
  obtain ⟨-, hrsv0, hrsv1, hrsv2⟩ := h
  have hw := fields_append w
  rwa [hrsv0, hrsv1, hrsv2] at hw

/-- Every value of the LEN field is the LEN of a command, in a row that takes LEN. -/
theorem exists_encode_of_len {f : Nat → Instr} (op len : BitVec 4) (hwf : ∀ n, (f n).wellFormed = Instr.lenFits n)
    (henc : ∀ n, encode (f n) = commandWord op (BitVec.ofNat 4 n) 0) :
    ∃ i : Instr, i.WellFormed ∧ encode i = commandWord op len 0 := by
  refine ⟨f len.toNat, (hwf _).trans (decide_eq_true (Nat.le_of_lt_succ len.isLt)), ?_⟩
  rw [henc, BitVec.ofNat_toNat, BitVec.setWidth_eq]

/-- Every OP that is no reserved one has a command with LEN and DATA at 0 (30_encoding.md R42). -/
theorem exists_encode_of_op : ∀ op : BitVec 4, op.toNat < 12 →
    ∃ i ∈ [Instr.nop, .crcInit, .crcFeed 0, .crcBuf 0, .crcVerify 0, .unpack 0, .pack 0, .packMeasureCmd,
      .packInitCmd, .convHum, .convTemp, .unpackConvert 0],
      i.WellFormed ∧ encode i = commandWord op 0 0 := by
  decide

/-- Legal operands are those of a command. -/
theorem OperandsLegal.exists_encode {op len : BitVec 4} {data : Byte} (h : OperandsLegal op len data) :
    ∃ i : Instr, i.WellFormed ∧ encode i = commandWord op len data := by
  obtain ⟨hop, hlen, rfl | hdata⟩ := h
  · obtain rfl | htakes := hlen
    · obtain ⟨i, -, hi⟩ := exists_encode_of_op op hop
      exact ⟨i, hi⟩
    · have hop : op = 3 ∨ op = 4 ∨ op = 5 ∨ op = 6 ∨ op = 11 := by simpa [TakesLen, BitVec.toNat_eq] using htakes
      obtain rfl | rfl | rfl | rfl | rfl := hop
      · exact exists_encode_of_len (f := .crcBuf) 3 len (fun _ => rfl) fun _ => rfl
      · exact exists_encode_of_len (f := .crcVerify) 4 len (fun _ => rfl) fun _ => rfl
      · exact exists_encode_of_len (f := .unpack) 5 len (fun _ => rfl) fun _ => rfl
      · exact exists_encode_of_len (f := .pack) 6 len (fun _ => rfl) fun _ => rfl
      · exact exists_encode_of_len (f := .unpackConvert) 11 len (fun _ => rfl) fun _ => rfl
  · have hlen : len = 0 := hlen.resolve_right (by rw [TakesLen, hdata]; decide)
    rw [hlen, BitVec.eq_of_toNat_eq (x := op) (y := 2#4) hdata]
    exact ⟨.crcFeed data, rfl, rfl⟩

/-- The words whose fields are legal are the words that decode to a command. -/
theorem fieldsLegal_iff (w : Word) : FieldsLegal w ↔ ∃ i, decode w = .command i := by
  constructor
  · intro h
    have ⟨hoperands, _⟩ := h
    obtain ⟨i, hwf, henc⟩ := hoperands.exists_encode
    rw [h.eq_commandWord] at henc
    exact ⟨i, henc ▸ decodeOfEncodeIsTheCommand i hwf⟩
  · rintro ⟨i, h⟩
    obtain ⟨-, henc⟩ := encodeOfDecodeIsTheWord w i h
    exact henc ▸ fieldsLegal_encode i

/-- Settles O4: the grounds of R44 are the negation of legal fields, and an illegal word has one outcome. -/
theorem illegalWordsAreTheReservedOnes : Obligations.IllegalWordsAreTheReservedOnes := by
  intro w op takesLen illegal
  have hillegal : illegal ↔ ∃ why, decode w = .illegal why := by
    rw [decode_illegal_iff, ← fieldsLegal_iff]
    -- Each ground of R44 denies one conjunct of legal fields.
    simp only [FieldsLegal, OperandsLegal, TakesLen, fieldOp, fieldLen, fieldData]
    grind
  refine ⟨hillegal, fun h s => ?_⟩
  obtain ⟨why, hw⟩ := hillegal.mp h
  exact execute_of_illegal hw s

end Sys2Proof.Machine
end

section
/-! PROOFS. NOP, and that every command word completes (43_control.md R100, R101). -/

namespace Sys2Proof.Machine

/-! ### Every word completes -/

/-- A command word leaves the host's side alone. -/
theorem execute_host {w : Word} {s t : State} (h : execute w s = .next t) :
    t.resetIn = s.resetIn ∧ t.program = s.program ∧ t.responses = s.responses := by
  obtain ⟨i, -, he⟩ | ⟨why, -, he⟩ := execute_cases w s <;> rw [he] at h
  · obtain ⟨-, hr, hp, hs, -⟩ := registersAreWrittenOnlyByTheListedCommands i s t h
    exact ⟨hr, hp, hs⟩
  · cases h
    exact ⟨rfl, rfl, rfl⟩

/-- Settles O44: a word runs a command, which completes, or raises IllegalCommand. -/
theorem everyWordCompletes : Obligations.EveryWordCompletes := by
  intro w s
  obtain ⟨t, h⟩ := execute_completes w s
  exact ⟨t, h, execute_host h⟩

/-! ### NOP is the one command that only clears ERR -/

/-- The command does from every state what NOP does. -/
def ClearsOnlyErr (i : Instr) : Prop := ∀ s : State, exec i s = .next { s with err := 0 }

theorem ClearsOnlyErr.next {i : Instr} {s t : State} (h : ClearsOnlyErr i) (he : exec i s = .next t) :
    t = { s with err := 0 } :=
  Host.Outcome.next.inj (he.symm.trans (h s))

/-- A frame command fails, or sets a RAW_VALID that was 0 (41_frame_codec.md R73). -/
theorem withFrame_reset_ne {len : Nat} {accept : State → State} (ha : ∀ u : State, (accept u).rawValid = true) :
    withFrame len State.reset accept ≠ .next { State.reset with err := 0 } := by
  intro h
  obtain he | ⟨c, e, hne, -, he⟩ := withFrame_next h
  · have hraw : false = true := (congrArg State.rawValid he).trans (ha _)
    cases hraw
  · exact hne (congrArg State.err he).symm

/-- No DATA keeps every accumulator: it takes one equal to itself to 0, and DATA 0 does not keep 1. -/
theorem exists_crc8Step_ne (data : Byte) : ∃ c, crc8Step c data ≠ c := by
  by_cases hdata : data = 0
  · exact ⟨1, by rw [hdata]; decide⟩
  · exact ⟨data, by rw [crc8Step_self]; exact Ne.symm hdata⟩

/-- The reset state with a CRC that is not the checksum of its first `n` buffer bytes. -/
def wrongCrc (n : Nat) : State := { State.reset with crc := crc8 (State.reset.bufBytes n) + 1 }

theorem crc8_wrongCrc_ne (n : Nat) : crc8 ((wrongCrc n).bufBytes n) ≠ (wrongCrc n).crc := by
  change crc8 (State.reset.bufBytes n) ≠ crc8 (State.reset.bufBytes n) + 1
  simp

/-- Each other command fails or changes a register from a state chosen for it. -/
theorem ClearsOnlyErr.eq_nop {i : Instr} (h : ClearsOnlyErr i) : i = .nop := by
  cases i with
  | nop => rfl
  | crcInit => cases h.next (exec_crcInit { State.reset with crc := 0 })
  | crcFeed data =>
    obtain ⟨c, hc⟩ := exists_crc8Step_ne data
    exact absurd (congrArg State.crc (h.next (exec_crcFeed data { State.reset with crc := c }))) hc
  | crcBuf len =>
    obtain ⟨-, he⟩ | ⟨-, he⟩ := exec_crcBuf_cases len (wrongCrc len)
    · exact absurd (congrArg State.crc (h.next he)) (crc8_wrongCrc_ne len)
    · cases h.next he
  | crcVerify len =>
    obtain ⟨-, -, -, he⟩ | ⟨-, -, -, he⟩ | ⟨-, he⟩ := exec_crcVerify_cases len (wrongCrc (len - 1))
    · exact absurd (congrArg State.crc (h.next he)) (crc8_wrongCrc_ne (len - 1))
    · cases h.next he
    · cases h.next he
  | unpack len => exact absurd (h State.reset) (withFrame_reset_ne fun _ => rfl)
  | unpackConvert len =>
    have he := h State.reset
    rw [exec_unpackConvert] at he
    exact absurd he (withFrame_reset_ne fun _ => rfl)
  | pack len =>
    obtain ⟨-, hf, -⟩ | ⟨-, hf, -⟩ | ⟨-, -, he⟩ | ⟨-, he⟩ :=
      exec_pack_cases len { State.reset with humRaw := 0x00100000 }
    · cases hf
    · cases hf
    · cases h.next he
    · cases h.next he
  | packMeasureCmd => cases h.next (exec_packMeasureCmd State.reset)
  | packInitCmd => cases h.next (exec_packInitCmd State.reset)
  | convHum => cases h.next (exec_convHum { State.reset with outValid := true })
  | convTemp => cases h.next (exec_convTemp { State.reset with outValid := true })

/-- Settles O26: the word with every field 0 is NOP's, and no other command or illegal word does what NOP does. -/
theorem nopClearsOnlyErr : Obligations.NopClearsOnlyErr := by
  refine ⟨by decide, exec_nop, fun w h => ?_⟩
  cases hd : decode w with
  | command i =>
    have hi : ClearsOnlyErr i := fun s => (execute_of_command hd s).symm.trans (h s)
    rw [hi.eq_nop]
  | illegal why => cases (execute_of_illegal hd State.reset).symm.trans (h State.reset)

end Sys2Proof.Machine
end

section
/-! PROOFS. The step that carries a command word (43_control.md R100; 20_memory.md R30). -/

namespace Sys2Proof.Machine

/-- The second clause of O12, for a step whose operation is the write of a word to CMD. -/
theorem step_write_cmd {s : State} {addr : HostAddr} {w : Word} {rest : List HostOp} (hr : s.resetIn = false)
    (hp : s.program = .write addr 4 w :: rest) (hv : addr.value = Config.base + Reg.cmd.offset) :
    step s = execute w { s with program := rest } := by
  obtain ⟨-, hcmd⟩ := writeDoesTheSlotsCase
  exact hcmd s addr w rest hr hp hv

/-- Settles O7: the step is the write to CMD, which executes the word. -/
theorem stepRunsTheDecodedCommand : Obligations.StepRunsTheDecodedCommand := by
  intro s addr w rest hr hp hv
  rw [step_write_cmd hr hp hv]
  exact ⟨fun i hi => execute_of_command hi _, fun why hwhy => execute_of_illegal hwhy _⟩

/-- A 32-bit word is the word of the opcode table with its number. -/
@[simp] theorem tableWord_toNat (w : Word) : tableWord 32 w.toNat = w := by
  rw [tableWord, Nat.mod_eq_of_lt w.isLt, BitVec.ofNat_toNat, BitVec.setWidth_eq]

theorem decodeTableWord_of_command {w : Word} {i : Instr} (h : decode w = .command i) :
    decodeTableWord 32 w.toNat = some i := by
  rw [decodeTableWord, tableWord_toNat, h]

/-- The operation put first in the host's program is the write of the word to CMD. -/
theorem step_withFetchWord (s : State) (w : Word) :
    step (s.withFetchWord 32 w.toNat) = execute w { s with resetIn := false } := by
  rw [State.withFetchWord, tableWord_toNat]
  exact step_write_cmd (s := s.withCommandFirst w) rfl rfl rfl

/-- Settles O8: the step executes the placed word, and so the command it decodes to. -/
theorem placedWordIsTheNextCommand : Obligations.PlacedWordIsTheNextCommand :=
  fun s w => ⟨step_withFetchWord s w, fun _ hi =>
    ⟨decodeTableWord_of_command hi, (step_withFetchWord s w).trans (execute_of_command hi _)⟩⟩

end Sys2Proof.Machine
end

section
/-! PROOFS. Which words raise which error, and what a word that raises has written
(60_exceptions.md R111 to R114, R118). -/

namespace Sys2Proof.Machine

/-! ### The table of errors -/

/-- The word is UNPACK or UNPACK_CONVERT with the given LEN. -/
def DecodesFrame (d : Decoded) (len : Nat) : Prop :=
  d = .command (.unpack len) ∨ d = .command (.unpackConvert len)

/-- The table of errors: what a word decodes to, when that raises in the state `s`, which error it raises,
and the state that `raiseError` is called on (60_exceptions.md R111 to R114, R118). -/
inductive Raises (s : State) : Decoded → ErrKind → State → Prop
  | illegal (why : IllegalReason) : Raises s (.illegal why) .illegalCommand s
  | crcBufLength {len : Nat} (hlen : 9 ≤ len) : Raises s (.command (.crcBuf len)) .invalidArgument s
  | crcVerifyLength {len : Nat} (hlen : len = 0 ∨ 9 ≤ len) :
      Raises s (.command (.crcVerify len)) .invalidArgument s
  | packRange {len : Nat} (hlen : len = 6 ∨ len = 7) (hraw : 2 ^ 20 ≤ s.humRaw.toNat ∨ 2 ^ 20 ≤ s.tempRaw.toNat) :
      Raises s (.command (.pack len)) .invalidArgument s
  | packLength {len : Nat} (hlen : ¬(len = 6 ∨ len = 7)) : Raises s (.command (.pack len)) .invalidFrame s
  | frameLength {d : Decoded} {len : Nat} (hd : DecodesFrame d len) (hlen : ¬(len = 6 ∨ len = 7)) :
      Raises s d .invalidFrame s.invalidate
  | crcVerifyChecksum (k : Fin 8) (hcrc : crc8 (s.bytesUpTo k.val) ≠ s.buf k) :
      Raises s (.command (.crcVerify (k.val + 1))) .checksumMismatch { s with crc := crc8 (s.bytesUpTo k.val) }
  | frameGate {d : Decoded} {len : Nat} (hd : DecodesFrame d len) (hen : s.crcEn = true)
      (hcrc : len = 6 ∨ (len = 7 ∧ s.buf 6 ≠ crc8 (s.bytesUpTo 6))) :
      Raises s d .checksumMismatch (s.gateCrc len).invalidate

/-! ### The words of the table raise -/

theorem execute_of_decodesFrame {w : Word} {len : Nat} (hd : DecodesFrame (decode w) len) (s : State) :
    ∃ accept, execute w s = withFrame len s accept := by
  obtain hd | hd := hd
  · exact ⟨_, (execute_of_command hd s).trans (exec_unpack len s)⟩
  · exact ⟨_, (execute_of_command hd s).trans (exec_unpackConvert len s)⟩

/-- The gate stops a frame when it is enabled and the frame has no checksum, or a wrong one (40_checksum.md R57). -/
theorem State.gatePasses_eq_false_iff {len : Nat} (s : State) (hlen : len = 6 ∨ len = 7) :
    (s.gateCrc len).gatePasses len = false ↔
      s.crcEn = true ∧ (len = 6 ∨ (len = 7 ∧ s.buf 6 ≠ crc8 (s.bytesUpTo 6))) := by
  obtain rfl | rfl := hlen
  · rw [s.gatePasses_six]
    simp
  · rw [← Bool.not_eq_true, s.gatePasses_seven_iff]
    simp

theorem Raises.execute_eq {w : Word} {s u : State} {e : ErrKind} (h : Raises s (decode w) e u) :
    execute w s = raiseError e u := by
  generalize hw : decode w = d at h
  cases h with
  | illegal why => exact execute_of_illegal hw s
  | crcBufLength hlen =>
    obtain ⟨-, -, hlong⟩ := crcBufChecksumsTheFirstBytes
    exact (execute_of_command hw s).trans (hlong s _ hlen)
  | crcVerifyLength hlen =>
    obtain ⟨-, -, hlong⟩ := crcVerifyComparesTheLastByte
    exact (execute_of_command hw s).trans (hlong s _ hlen)
  | packRange hlen hraw => exact (execute_of_command hw s).trans (exec_pack_of_too_large hlen hraw)
  | packLength hlen => exact (execute_of_command hw s).trans (exec_pack_of_not_frameLen s hlen)
  | crcVerifyChecksum k hcrc =>
    rw [execute_of_command hw s, exec_crcVerify_succ, if_neg hcrc]
    rfl
  | frameLength hd hlen =>
    obtain ⟨accept, he⟩ := execute_of_decodesFrame (hw ▸ hd) s
    exact he.trans (withFrame_of_not_frameLen accept hlen)
  | frameGate hd hen hcrc =>
    obtain ⟨accept, he⟩ := execute_of_decodesFrame (hw ▸ hd) s
    have hlen := hcrc.imp_right And.left
    exact he.trans (withFrame_of_not_passes accept hlen ((s.gatePasses_eq_false_iff hlen).mpr ⟨hen, hcrc⟩))

/-! ### No other word raises -/

theorem withFrame_err_or_raises {s t : State} {d : Decoded} {len : Nat} {accept : State → State}
    (hd : DecodesFrame d len) (h : withFrame len s accept = .next t) : t.err = 0 ∨ ∃ e u, Raises s d e u := by
  by_cases hlen : len = 6 ∨ len = 7
  · cases hpass : (s.gateCrc len).gatePasses len with
    | true =>
      cases (withFrame_of_passes accept hlen hpass).symm.trans h
      exact .inl rfl
    | false =>
      obtain ⟨hen, hcrc⟩ := (s.gatePasses_eq_false_iff hlen).mp hpass
      exact .inr ⟨_, _, .frameGate hd hen hcrc⟩
  · exact .inr ⟨_, _, .frameLength hd hlen⟩

theorem crcVerify_err_or_raises {s t : State} {len : Nat} (h : exec (.crcVerify len) s = .next t) :
    t.err = 0 ∨ ∃ e u, Raises s (.command (.crcVerify len)) e u := by
  by_cases hlen : len = 0 ∨ 9 ≤ len
  · exact .inr ⟨_, _, .crcVerifyLength hlen⟩
  · obtain ⟨k, rfl⟩ : ∃ k : Fin 8, len = k.val + 1 := ⟨⟨len - 1, by omega⟩, (Nat.sub_add_cancel (by omega)).symm⟩
    by_cases hcrc : crc8 (s.bytesUpTo k.val) = s.buf k
    · cases (exec_crcVerify_succ s k).symm.trans h
      exact .inl (if_pos hcrc)
    · exact .inr ⟨_, _, .crcVerifyChecksum k hcrc⟩

theorem pack_err_or_raises {s t : State} {len : Nat} (h : exec (.pack len) s = .next t) :
    t.err = 0 ∨ ∃ e u, Raises s (.command (.pack len)) e u := by
  obtain ⟨-, -, he⟩ | ⟨-, -, he⟩ | ⟨hlen, hf, -⟩ | ⟨hlen, -⟩ := exec_pack_cases len s
  · cases he.symm.trans h; exact .inl rfl
  · cases he.symm.trans h; exact .inl rfl
  · have hraw := mt (fitsFields_iff s).mpr (Bool.eq_false_iff.mp hf)
    exact .inr ⟨_, _, .packRange hlen (by omega)⟩
  · exact .inr ⟨_, _, .packLength hlen⟩

theorem exec_err_or_raises {i : Instr} {s t : State} (h : exec i s = .next t) :
    t.err = 0 ∨ ∃ e u, Raises s (.command i) e u := by
  cases i with
  | nop | crcInit | crcFeed data | packMeasureCmd | packInitCmd | convHum | convTemp => cases h; exact .inl rfl
  | crcBuf len =>
    obtain ⟨-, he⟩ | ⟨hlen, -⟩ := exec_crcBuf_cases len s
    · cases he.symm.trans h; exact .inl rfl
    · exact .inr ⟨_, _, .crcBufLength hlen⟩
  | crcVerify len => exact crcVerify_err_or_raises h
  | pack len => exact pack_err_or_raises h
  | unpack len => exact withFrame_err_or_raises (.inl rfl) h
  | unpackConvert len =>
    rw [exec_unpackConvert] at h
    exact withFrame_err_or_raises (.inr rfl) h

/-- A word leaves ERR at OK, or it stands in the table. -/
theorem execute_err_or_raises {w : Word} {s t : State} (h : execute w s = .next t) :
    t.err = 0 ∨ ∃ e u, Raises s (decode w) e u := by
  cases hw : decode w with
  | command i => exact exec_err_or_raises ((execute_of_command hw s).symm.trans h)
  | illegal why => exact .inr ⟨_, _, .illegal why⟩

/-! ### ERR and the table -/

theorem ErrKind.code_ne_zero (e : ErrKind) : e.code ≠ 0 := by
  cases e <;> decide

theorem ErrKind.code_injective : Function.Injective ErrKind.code := by
  intro a b
  cases a <;> cases b <;> decide

/-- The next state of a word that raises: what it has written, and the error's code. -/
theorem Raises.next {w : Word} {s t u : State} {e : ErrKind} (hr : Raises s (decode w) e u)
    (h : execute w s = .next t) : t = { u with err := e.code } :=
  raiseError_next_iff.mp (hr.execute_eq.symm.trans h)

/-- A word that leaves ERR nonzero stands in the table. -/
theorem exists_raises_of_err_ne_zero {w : Word} {s t : State} (h : execute w s = .next t) (herr : t.err ≠ 0) :
    ∃ e u, Raises s (decode w) e u ∧ t = { u with err := e.code } := by
  obtain h0 | ⟨e, u, hr⟩ := execute_err_or_raises h
  · exact absurd h0 herr
  · exact ⟨e, u, hr, hr.next h⟩

/-- ERR is the code of an error exactly when the table has a row with that error for the word. -/
theorem err_eq_code_iff {w : Word} {s t : State} (e : ErrKind) (h : execute w s = .next t) :
    t.err = e.code ↔ ∃ u, Raises s (decode w) e u := by
  constructor
  · intro herr
    obtain ⟨e', u, hr, rfl⟩ := exists_raises_of_err_ne_zero h (herr ▸ e.code_ne_zero)
    cases ErrKind.code_injective herr
    exact ⟨u, hr⟩
  · rintro ⟨u, hr⟩
    rw [hr.next h]

/-! ### The causes of each error -/

/-- A decoded LEN is at most 15 (30_encoding.md R40). -/
theorem len_le_of_decode {w : Word} {i : Instr} {len : Nat} (hw : decode w = .command i)
    (hi : i.wellFormed = Instr.lenFits len) : len ≤ 15 := by
  obtain ⟨hwf, -⟩ := encodeOfDecodeIsTheWord w i hw
  exact of_decide_eq_true (hi.symm.trans hwf)

/-- A raw value has a bit above bit 19 exactly when it does not fit 20 bits. -/
theorem extractLsb'_high_ne_zero_iff (raw : Word) : raw.extractLsb' 20 12 ≠ 0 ↔ 2 ^ 20 ≤ raw.toNat := by
  rw [← Nat.not_lt, ← fitsField_iff, fitsField, beq_iff_eq]

/-- Settles O45: three rows of the table have InvalidArgument. -/
theorem invalidArgumentHasThreeCauses : Obligations.InvalidArgumentHasThreeCauses := by
  intro w s t h
  refine (err_eq_code_iff .invalidArgument h).trans ?_
  simp only [extractLsb'_high_ne_zero_iff]
  constructor
  · rintro ⟨u, hr⟩
    generalize hw : decode w = d at hr
    cases hr with
    | crcBufLength hlen => exact .inl ⟨_, rfl, hlen, len_le_of_decode hw rfl⟩
    | crcVerifyLength hlen => exact .inr (.inl ⟨_, rfl, hlen.imp_right fun h9 => ⟨h9, len_le_of_decode hw rfl⟩⟩)
    | packRange hlen hraw => exact .inr (.inr ⟨_, rfl, hlen, hraw⟩)
  · rintro (⟨len, hw, hlen, -⟩ | ⟨len, hw, hlen⟩ | ⟨len, hw, hlen, hraw⟩) <;> rw [hw]
    · exact ⟨_, .crcBufLength hlen⟩
    · exact ⟨_, .crcVerifyLength (hlen.imp_right And.left)⟩
    · exact ⟨_, .packRange hlen hraw⟩

/-- Settles O46: the two rows of the table with InvalidFrame are the wrong lengths of PACK and of the frame commands. -/
theorem invalidFrameHasOneCause : Obligations.InvalidFrameHasOneCause := by
  intro w s t h
  refine (err_eq_code_iff .invalidFrame h).trans ?_
  constructor
  · rintro ⟨u, hr⟩
    generalize decode w = d at hr
    cases hr with
    | packLength hlen => exact ⟨_, mt .inl hlen, mt .inr hlen, .inr (.inr rfl)⟩
    | frameLength hd hlen => exact ⟨_, mt .inl hlen, mt .inr hlen, hd.imp_right .inl⟩
  · rintro ⟨len, h6, h7, hw⟩
    have hlen : ¬(len = 6 ∨ len = 7) := not_or.mpr ⟨h6, h7⟩
    obtain hw | hw | hw := hw
    · exact ⟨_, .frameLength (.inl hw) hlen⟩
    · exact ⟨_, .frameLength (.inr hw) hlen⟩
    · rw [hw]; exact ⟨_, .packLength hlen⟩

/-- Settles O47: the two rows of the table with ChecksumMismatch are CRC_VERIFY's and the frame gate's. -/
theorem checksumMismatchHasTwoCauses : Obligations.ChecksumMismatchHasTwoCauses := by
  intro w s t h
  refine (err_eq_code_iff .checksumMismatch h).trans ?_
  constructor
  · rintro ⟨u, hr⟩
    generalize decode w = d at hr
    cases hr with
    | crcVerifyChecksum k hcrc => exact .inl ⟨k, rfl, hcrc⟩
    | frameGate hd hen hcrc => exact .inr ⟨hen, _, hd, hcrc⟩
  · rintro (⟨k, hw, hcrc⟩ | ⟨hen, len, hd, hcrc⟩)
    · rw [hw]; exact ⟨_, .crcVerifyChecksum k hcrc⟩
    · exact ⟨_, .frameGate hd hen hcrc⟩

/-- The one row with IllegalCommand is that of the illegal words, which write nothing. -/
theorem raises_illegalCommand_iff {s u : State} {d : Decoded} :
    Raises s d .illegalCommand u ↔ (∃ why, d = .illegal why) ∧ u = s := by
  constructor
  · intro hr
    cases hr with
    | illegal why => exact ⟨⟨why, rfl⟩, rfl⟩
  · rintro ⟨⟨why, rfl⟩, rfl⟩
    exact .illegal why

/-- Settles O48: the row of the illegal words raises on the state as it was. -/
theorem illegalCommandIsRaisedByIllegalWords : Obligations.IllegalCommandIsRaisedByIllegalWords := by
  intro w s t h
  have hcode : t.err = 1 ↔ ∃ u, Raises s (decode w) .illegalCommand u := err_eq_code_iff .illegalCommand h
  refine ⟨hcode.trans (by simp [raises_illegalCommand_iff]), fun herr => ?_⟩
  obtain ⟨u, hr⟩ := hcode.mp herr
  obtain ⟨-, rfl⟩ := raises_illegalCommand_iff.mp hr
  exact hr.next h

/-! ### What a word that raises has written (60_exceptions.md R118) -/

section

variable {s u : State} {d : Decoded} {e : ErrKind} (h : Raises s d e u)
include h

theorem Raises.frame : u = { s with rawValid := u.rawValid, outValid := u.outValid, crc := u.crc } := by
  cases h <;> rfl

/-- UNPACK and UNPACK_CONVERT clear both flags before they raise. -/
theorem Raises.flags_of_decodesFrame {len : Nat} (hd : DecodesFrame d len) :
    u.rawValid = false ∧ u.outValid = false := by
  cases h with
  | frameLength | frameGate => exact ⟨rfl, rfl⟩
  | illegal | crcBufLength | crcVerifyLength | packRange | packLength | crcVerifyChecksum =>
    obtain hd | hd := hd <;> cases hd

theorem Raises.flags_of_not_decodesFrame (hd : ∀ len, ¬DecodesFrame d len) :
    u.rawValid = s.rawValid ∧ u.outValid = s.outValid := by
  cases h with
  | frameLength hd' | frameGate hd' => exact absurd hd' (hd _)
  | illegal | crcBufLength | crcVerifyLength | packRange | packLength | crcVerifyChecksum => exact ⟨rfl, rfl⟩

/-- CRC takes the checksum that the gate of a 7-byte frame or CRC_VERIFY computed, or stays. -/
theorem Raises.crc_cases :
    u.crc = s.crc ∨ (DecodesFrame d 7 ∧ u.crc = crc8 (s.bytesUpTo 6)) ∨
      ∃ k : Fin 8, d = .command (.crcVerify (k.val + 1)) ∧ u.crc = crc8 (s.bytesUpTo k.val) := by
  cases h with
  | illegal | crcBufLength | crcVerifyLength | packRange | packLength | frameLength => exact .inl rfl
  | crcVerifyChecksum k => exact .inr (.inr ⟨k, rfl, rfl⟩)
  | frameGate hd _ hcrc =>
    obtain rfl | ⟨rfl, -⟩ := hcrc
    · exact .inl rfl
    · exact .inr (.inl ⟨hd, rfl⟩)

end

/-- Settles O49: what each row of the table writes before it raises. -/
theorem failingCommandChangesOnlyStatusAndCrc : Obligations.FailingCommandChangesOnlyStatusAndCrc := by
  intro w s t h herr
  obtain ⟨e, u, hr, rfl⟩ := exists_raises_of_err_ne_zero h herr
  refine ⟨congrArg (fun v : State => { v with err := e.code }) hr.frame, ⟨?_, fun hd => ?_⟩, hr.crc_cases⟩
  · rintro ⟨len, hd⟩
    exact hr.flags_of_decodesFrame hd
  · exact hr.flags_of_not_decodesFrame fun len => not_or.mpr (hd len)

end Sys2Proof.Machine
end

section
/-! PROOFS. The reset event and the accesses around it (70_reset_and_hazards.md R140, R141). -/

namespace Sys2Proof.Machine

/-! ### The values at reset -/

/-- Settles O14, by the laws of `resetRegisters`, which both events apply; the state after reset is the
reset of itself. -/
theorem resetGivesTheListedValues : Obligations.ResetGivesTheListedValues := by
  refine ⟨fun s t h => ?listed, rfl⟩
  case listed => obtain h | h := h <;> cases h <;> simp

/-- Settles O55: the state after reset is the reset of itself. -/
theorem resetMeetsTheInvariant : Obligations.ResetMeetsTheInvariant := inv_resetRegisters State.reset

/-! ### Accesses in reset and after its release -/

theorem hostOp_read_in_reset (addr : HostAddr) (n : Nat) {s : State} (hr : s.resetIn = true) :
    hostOp (.read addr n) s = .fault .accessInReset := if_pos hr

theorem hostOp_write_in_reset (addr : HostAddr) (n : Nat) (v : Word) {s : State} (hr : s.resetIn = true) :
    hostOp (.write addr n v) s = .fault .accessInReset := if_pos hr

/-- One operation after the release is that operation with the reset input low: nothing else has changed. -/
theorem runOps_release_cons_nil (op : HostOp) (s : State) :
    runOps [.releaseReset, op] s = hostOp op { s with resetIn := false } := by
  rw [runOps_cons_of_next (s := s) rfl, runOps]
  cases hostOp op { s with resetIn := false } <;> rfl

/-- Settles O15: in reset the input is tested before the address; after the release an access needs only
to be admitted, and none of them raises the input again. -/
theorem accessDuringResetFaults : Obligations.AccessDuringResetFaults := by
  intro s t addr n v h
  have hr : t.resetIn = true := by cases h; rfl
  refine ⟨hostOp_read_in_reset addr n hr, hostOp_write_in_reset addr n v hr, fun ha => ?served⟩
  case served =>
    rw [runOps_release_cons_nil, runOps_release_cons_nil]
    obtain ⟨u, hread⟩ := (hostOp_read_served_iff addr n { t with resetIn := false }).mpr ⟨rfl, ha⟩
    obtain ⟨w, hwrite⟩ := (hostOp_write_served_iff addr n v { t with resetIn := false }).mpr ⟨rfl, ha⟩
    exact ⟨⟨u, hread, hostOp_read_resetIn hread⟩, w, hwrite, hostOp_write_resetIn hwrite⟩

end Sys2Proof.Machine
end
